-- ==== Sys2Proof/Word.lean ====
section
/-! DEFINITION. The fixed widths of the block (spec R7, R148): every quantity is an unsigned
integer of one of these widths, or a single bit. -/

namespace Sys2Proof

/-- One cell of a frame: a `Bit`, `true` for 1 (R7, R50). -/
abbrev Bit := Bool

/-- An integer 0..15 (R7). -/
abbrev Nib := BitVec 4

/-- An integer 0..255 (R7); also the integer code of a setting-domain member (`Code`). -/
abbrev Byte := BitVec 8

/-- The command word and the response data word, handled whole (R58, R80, R84). -/
abbrev Word := BitVec 32

/-- A pulse duration in microseconds (R7, R38); the positivity of a `Dur` is part of `Config.WF`. -/
abbrev Dur := BitVec 32

end Sys2Proof
end

