-- ==== Sys2Proof/Syntax.lean ====
section
/-! DEFINITION. The host commands as syntax (spec R80 to R89, `opcode_table.json`): one constructor of
`Instr` per row of the table, and the symbolic operands of R101. An operand is the field of the
command word that carries it (R81); which field values are legal is `WellFormed.lean`. -/

namespace Sys2Proof

/-- The ten axis registers by name, in the order of their numbers 0..9 (R20). -/
inductive Axis where
  | power | mode | temp | fanV | fanH | fanSpeed | highPower | longFan | roomClean | area
deriving DecidableEq, Repr

/-- The four registered vendors, identifiers 0..3 in this order (R2, R21). -/
inductive Vendor where
  | A | B | C | D
deriving DecidableEq, Repr

/-- The six `INFO` selectors, numbers 0..5 in this order (R101, R125). -/
inductive Selector where
  | vendor | minTemp | maxTemp | tempStep | status | nfr
deriving DecidableEq, Repr

/-- The host commands, one constructor per row of `spec/opcode_table.json` (R87, R89). -/
inductive Instr where
  /-- `NOP` (R110). -/
  | nop
  /-- `INIT v` (R111): `v` the vendor identifier of field `lo`. -/
  | init (v : Byte)
  /-- `SET a, x` (R113): axis number of field `a`, value of field `lo`. -/
  | set (a : BitVec 4) (x : Byte)
  /-- `GET a` (R120). -/
  | get (a : BitVec 4)
  /-- `CAPQ a, c` (R122): axis number, member code. -/
  | capq (a : BitVec 4) (c : Byte)
  /-- `INFO s` (R125): selector number of field `a`. -/
  | info (s : BitVec 4)
  /-- `ENC` (R253). -/
  | enc
  /-- `ASM` (R281). -/
  | asm
  /-- `FLEN f` (R255): the one-bit frame number. -/
  | flen (f : BitVec 1)
  /-- `RDBIT f, i` (R256): frame number, bit index `imm16`. -/
  | rdbit (f : BitVec 1) (i : BitVec 16)
  /-- `WLEN` (R282). -/
  | wlen
  /-- `RDPULSE i` (R283): pulse index `imm16`. -/
  | rdpulse (i : BitVec 16)
  /-- `ENG.REV8 x` (R140, R160). -/
  | engRev8 (x : Byte)
  /-- `ENG.CPL8 x` (R142, R160). -/
  | engCpl8 (x : Byte)
  /-- `ENG.CPL4 x` (R143, R160): `x = lo[3:0]`. -/
  | engCpl4 (x : Nib)
  /-- `ENG.NIBP x` (R144, R160): `x = lo[3:0]`. -/
  | engNibp (x : Nib)
  /-- `ENG.ADD8 y, x` (R145, R160): `y = hi`, `x = lo`. -/
  | engAdd8 (y x : Byte)
  /-- `ENG.TLUTD x` (R150, R160). -/
  | engTlutd (x : Byte)
  /-- `ENG.TNIBB x` (R151, R160). -/
  | engTnibb (x : Byte)
  /-- `ENG.TCODEA y, x` (R152, R160): `y = hi` a mode code, `x = lo` a temperature. -/
  | engTcodea (y x : Byte)
  /-- `ENG.TFLDB x` (R153, R160). -/
  | engTfldb (x : Byte)
deriving DecidableEq, Repr

end Sys2Proof
end

