-- ==== Sys2Proof/Config.lean ====
section
/-! DEFINITION. The immutable configuration record `CFG` (spec R9), its well-formedness `WF(CFG)`
(R12), the one configuration the machine is built with, and the fabricated TESTCFG of
`95_test_vectors.md`. `CFG` is a parameter and not state (R40): the machine's own copy, `Config.cfg`,
is an opaque constant of which nothing is known but `WF(CFG)`. -/

namespace Sys2Proof

/-! ## The Appliance State, the record every configuration function reads -/

/-- The ten axis registers `AX[0]`..`AX[9]` as the record `S` (R20), each 8 bits wide. -/
structure Axes where
  /-- `AX[0]`. -/
  power : Byte
  /-- `AX[1]`. -/
  mode : Byte
  /-- `AX[2]`, integer degrees Celsius (R24). -/
  temp : Byte
  /-- `AX[3]`. -/
  fanV : Byte
  /-- `AX[4]`. -/
  fanH : Byte
  /-- `AX[5]`. -/
  fanSpeed : Byte
  /-- `AX[6]`. -/
  highPower : Byte
  /-- `AX[7]`. -/
  longFan : Byte
  /-- `AX[8]`. -/
  roomClean : Byte
  /-- `AX[9]`. -/
  area : Byte
deriving DecidableEq, Repr

/-- `AX[a]` (R8, R50: `MemRead(AXIS, a, 1)`). -/
def Axes.get (S : Axes) : Axis → Byte
  | .power => S.power
  | .mode => S.mode
  | .temp => S.temp
  | .fanV => S.fanV
  | .fanH => S.fanH
  | .fanSpeed => S.fanSpeed
  | .highPower => S.highPower
  | .longFan => S.longFan
  | .roomClean => S.roomClean
  | .area => S.area

/-! ## The record (R9) -/

/-- One segment of a vendor's wave (R271). -/
inductive Seg where
  /-- `LIT(ds)`: durations copied into the wave as they stand. -/
  | lit (ds : List Dur)
  /-- `DATA(f)`: the expansion of frame `f`. -/
  | data (f : Nat)
deriving DecidableEq, Repr

/-- The configuration record `CFG` (R9). Every function is total on its argument type (D40). -/
structure Config where
  /-- `DOM(v,a)` as a membership test; not read for the axis `TEMP` (R23). -/
  dom : Vendor → Axis → Byte → Bool
  /-- `SENT(v,a)`, the sentinel of that domain (R23). -/
  sent : Vendor → Axis → Byte
  /-- `MIN_TEMP(v)` (R24). -/
  minTemp : Vendor → Byte
  /-- `MAX_TEMP(v)` (R24). -/
  maxTemp : Vendor → Byte
  /-- `TEMP_DEFAULT(v)` (R25). -/
  tempDefault : Vendor → Byte
  /-- `A_POWER_ON` (R171). -/
  aPowerOn : Byte
  /-- `A_POWER_OFF` (R171). -/
  aPowerOff : Byte
  /-- `A_MODE_COOL` (R171). -/
  aModeCool : Byte
  /-- `A_HDR(k,i)`, logical values (R171). -/
  aHdr : Fin 2 → Fin 3 → Byte
  /-- `A_THERMO(m)` (R171). -/
  aThermo : Byte → Bool
  /-- `A_FIXT(m)` (R171). -/
  aFixt : Byte → Byte
  /-- `A_TPOS`, block and payload index of the temperature byte (R171). -/
  aTpos : Fin 2 × Fin 16
  /-- `A_PMPOS`, block and payload index of the power/mode byte (R171). -/
  aPmpos : Fin 2 × Fin 16
  /-- `A_PM(p,m)` (R171). -/
  aPm : Byte → Byte → Byte
  /-- `A_REST(k,j,S)` (R171). -/
  aRest : Fin 2 → Fin 16 → Axes → Byte
  /-- `A_CK_HDR` (R171, default false). -/
  aCkHdr : Bool := false
  /-- `B_NP`, the number of (literal, complement) pairs (R191). -/
  bNp : Nat
  /-- `B_REST(j,S)`, `j` a literal index counted from 1 (R191). -/
  bRest : Nat → Axes → Byte
  /-- `B_TMARK_MIN` (R191). -/
  bTmarkMin : Byte
  /-- `B_TFPOS`, a literal index counted from 1 (R191). -/
  bTfpos : Nat
  /-- `B_TFLSB` (R191). -/
  bTflsb : Fin 3
  /-- `B_MAXM0` (R191). -/
  bMaxm0 : BitVec 2
  /-- `B_MAXM1` (R191). -/
  bMaxm1 : BitVec 2
  /-- `B_TNIB(t)`, 256 entries (R151). -/
  bTnib : Byte → Nib
  /-- `B_LSB_FIRST` (R54, R191, default false). -/
  bLsbFirst : Bool := false
  /-- `C_REST(j,S)` (R211). -/
  cRest : Fin 18 → Axes → Byte
  /-- `C_FANPOS` (R211). -/
  cFanpos : Fin 18
  /-- `C_EXTPOS` (R211). -/
  cExtpos : Fin 18
  /-- `C_FAN1(S)` (R211). -/
  cFan1 : Axes → Byte
  /-- `C_FAN2(S)` (R211). -/
  cFan2 : Axes → Byte
  /-- `C_EXT1(S)` (R211). -/
  cExt1 : Axes → Byte
  /-- `C_EXT2(S)` (R211). -/
  cExt2 : Axes → Byte
  /-- `C_CK_REV` (R211, default false). -/
  cCkRev : Bool := false
  /-- `D_NB` (R231, R232, default 6). -/
  dNb : Nat := 6
  /-- `D_REST(i,S)` (R231). -/
  dRest : Nat → Axes → Nib
  /-- `D_TPOS` (R231). -/
  dTpos : Nat
  /-- `TLUT_D(t)`, 256 entries (R150). -/
  tlutD : Byte → Nib
  /-- `D_FOOT(i,S)` (R231). -/
  dFoot : Fin 6 → Axes → Byte
  /-- `MARK(v)` (R271). -/
  mark : Vendor → Dur
  /-- `ONE_SPACE(v)` (R271). -/
  oneSpace : Vendor → Dur
  /-- `ZERO_SPACE(v)` (R271). -/
  zeroSpace : Vendor → Dur
  /-- `SEGS(v)` (R271). -/
  segs : Vendor → List Seg
  /-- `FRAME_MAX_BITS` (R37). -/
  frameMaxBits : Nat
  /-- `PULSE_MAX` (R39). -/
  pulseMax : Nat

namespace Config

/-- `TEMP_STEP(v)`, the constant 1 (R24). -/
def tempStep (_v : Vendor) : Byte := 1

/-- `NFR(v)`, the number of frames of a vendor (R251). -/
def nfr : Vendor → Nat
  | .A => 2
  | .B => 1
  | .C => 1
  | .D => 2

/-- `FLEN_v(f)`, the constant length of frame `f < NFR(v)` in bits (R251). -/
def frameLen (c : Config) (v : Vendor) (f : Nat) : Nat :=
  match v with
  | .A => 160
  | .B => 16 * c.bNp
  | .C => 152
  | .D => if f = 0 then 8 * c.dNb else 48

/-- The number of wave entries one segment gives (R277). -/
def segLen (c : Config) (v : Vendor) : Seg → Nat
  | .lit ds => ds.length
  | .data f => 2 * c.frameLen v f

/-- `wavelen(v)` (R277). -/
def wavelen (c : Config) (v : Vendor) : Nat := ((c.segs v).map (c.segLen v)).sum

/-- The frame numbers of the `DATA` segments of a segment list, in order (R272). -/
def dataOrder (segs : List Seg) : List Nat :=
  segs.filterMap fun
    | .lit _ => none
    | .data f => some f

/-- The order of the `DATA` segments the source fixes for each vendor (R272); the literal pulses R272 asks for
around the blocks of vendor A are `WF.a_framed`. -/
def dataOrderOk : Vendor → List Nat → Prop
  | .A, fs => fs = [0, 1]
  | .B, fs => fs ≠ [] ∧ ∀ f ∈ fs, f = 0
  | .C, fs => fs ≠ [] ∧ ∀ f ∈ fs, f = 0
  | .D, fs => fs = [0, 0, 1]

/-- A valid Appliance State of vendor `v` (R26): every axis other than `TEMP` holds a member of its
domain, and the temperature is within the bounds. -/
structure ValidAxes (c : Config) (v : Vendor) (S : Axes) : Prop where
  dom : ∀ a, a ≠ .temp → c.dom v a (S.get a) = true
  minTemp : (c.minTemp v).toNat ≤ S.temp.toNat
  maxTemp : S.temp.toNat ≤ (c.maxTemp v).toNat

/-- `WF(CFG)`: the conjunction of the constraints of the rules R9 names (R12). -/
structure WF (c : Config) : Prop where
  /-- The sentinel is a member, so every domain is non-empty (R23). -/
  sent_mem : ∀ v a, a ≠ .temp → c.dom v a (c.sent v a) = true
  /-- `1 <= MIN_TEMP(v)` (R24). -/
  temp_pos : ∀ v, 1 ≤ (c.minTemp v).toNat
  /-- `MIN_TEMP(v) <= MAX_TEMP(v)` (R24). -/
  temp_order : ∀ v, (c.minTemp v).toNat ≤ (c.maxTemp v).toNat
  /-- `MAX_TEMP(v) <= 127` (R24). -/
  temp_le : ∀ v, (c.maxTemp v).toNat ≤ 127
  /-- 16 and 17 are supported by vendor D (R24). -/
  temp_D : (c.minTemp .D).toNat ≤ 16 ∧ 17 ≤ (c.maxTemp .D).toNat
  /-- 21 is supported by vendor A (R24). -/
  temp_A : (c.minTemp .A).toNat ≤ 21 ∧ 21 ≤ (c.maxTemp .A).toNat
  /-- The default temperature is within the bounds (R25). -/
  temp_default : ∀ v, (c.minTemp v).toNat ≤ (c.tempDefault v).toNat ∧
    (c.tempDefault v).toNat ≤ (c.maxTemp v).toNat
  /-- ON and OFF are two members of the power domain of vendor A, COOL a member of its modes (R171). -/
  a_members : c.dom .A .power c.aPowerOn = true ∧ c.dom .A .power c.aPowerOff = true ∧
    c.dom .A .mode c.aModeCool = true
  /-- ON and OFF are distinct (R171). -/
  a_on_ne_off : c.aPowerOn ≠ c.aPowerOff
  /-- COOL is a thermostat mode (R171). -/
  a_cool : c.aThermo c.aModeCool = true
  /-- The power/mode byte and the temperature byte are different bytes (R171). -/
  a_pos : c.aPmpos ≠ c.aTpos
  /-- The power/mode byte tells ON from OFF in every mode of the domain (R171). -/
  a_pm : ∀ m, c.dom .A .mode m = true → c.aPm c.aPowerOn m ≠ c.aPm c.aPowerOff m
  /-- No other payload byte reads the power axis (R171). -/
  a_rest : ∀ k j S p, c.aRest k j { S with power := p } = c.aRest k j S
  /-- `5 <= B_NP <= 4095` (R191). -/
  b_np : 5 ≤ c.bNp ∧ c.bNp ≤ 4095
  /-- The minimum's marker byte is distinct (R191). -/
  b_tmark : ∀ S, c.ValidAxes .B S → S.temp ≠ c.minTemp .B → c.bRest 5 S ≠ c.bTmarkMin
  /-- `B_TFPOS` is a literal index other than 5 (R191). -/
  b_tfpos : 1 ≤ c.bTfpos ∧ c.bTfpos ≤ c.bNp ∧ c.bTfpos ≠ 5
  /-- The two is-max markers differ (R191). -/
  b_maxm : c.bMaxm0 ≠ c.bMaxm1
  /-- The fan byte and the extra byte are different bytes (R211). -/
  c_pos : c.cFanpos ≠ c.cExtpos
  /-- `D_NB` is 6 or 8 (R231). -/
  d_nb : c.dNb = 6 ∨ c.dNb = 8
  /-- `D_TPOS` is a nibble of the main frame (R231). -/
  d_tpos : c.dTpos < c.dNb
  /-- The two table entries the source gives (R150). -/
  tlut : c.tlutD 16 = 0 ∧ c.tlutD 17 = 0
  /-- Durations are positive (R7, R271). -/
  dur_pos : ∀ v, c.mark v ≠ 0 ∧ c.oneSpace v ≠ 0 ∧ c.zeroSpace v ≠ 0
  /-- The two spaces differ (R271). -/
  spaces : ∀ v, c.zeroSpace v ≠ c.oneSpace v
  /-- Every literal segment is a non-empty list of positive durations (R271, R276). -/
  lit_pos : ∀ v ds, .lit ds ∈ c.segs v → ds ≠ [] ∧ ∀ d ∈ ds, d ≠ 0
  /-- The order of the `DATA` segments (R272). -/
  data_order : ∀ v, dataOrderOk v (dataOrder (c.segs v))
  /-- Each of the two blocks of vendor A has literal pulses of its own before and after it (R170, R272): a literal
  segment before block 0, one between the blocks, and one after block 1. That one literal between the
  blocks can hold the pulses after block 0 and those before block 1 is a DESIGN CHOICE (log entry 12); by
  `seg_parity` such a literal has at least two entries. -/
  a_framed : ∃ before between after, c.segs .A = before ++ .data 0 :: (between ++ .data 1 :: after) ∧
    (∃ ds, .lit ds ∈ before) ∧ (∃ ds, .lit ds ∈ between) ∧ ∃ ds, .lit ds ∈ after
  /-- The last segment is a literal of odd length, every other literal has even length (R276). -/
  seg_parity : ∀ v, ∃ init ds, c.segs v = init ++ [.lit ds] ∧ ds.length % 2 = 1 ∧
    ∀ es, .lit es ∈ init → es.length % 2 = 0
  /-- Every frame fits the frame buffer (R37). -/
  frame_fits : 160 ≤ c.frameMaxBits ∧ 16 * c.bNp ≤ c.frameMaxBits ∧ 152 ≤ c.frameMaxBits ∧
    8 * c.dNb ≤ c.frameMaxBits ∧ 48 ≤ c.frameMaxBits ∧ c.frameMaxBits ≤ 65535
  /-- Every wave fits the pulse buffer (R39). -/
  wave_fits : (∀ v, c.wavelen v ≤ c.pulseMax) ∧ c.pulseMax ≤ 65535

/-! ## TESTCFG (`95_test_vectors.md` section 2) -/

/-- The domains of TESTCFG. -/
def testDom : Vendor → Axis → List Nat
  | _, .power => [0, 1, 2]
  | .D, .mode => [1, 2, 3, 4, 5]
  | _, .mode => [0, 1, 2, 3, 4, 5]
  | _, .temp => []
  | .D, .fanV => [0]
  | _, .fanV => [0, 1, 2, 3, 4, 5, 15]
  | .C, .fanH => [0, 1, 2, 3]
  | _, .fanH => [0]
  | _, .fanSpeed => [0, 1, 2, 3, 4, 5]
  | .A, .highPower => [0, 1, 2]
  | .C, .highPower => [0, 1, 2]
  | _, .highPower => [0]
  | .C, .longFan => [0, 1]
  | _, .longFan => [0]
  | .B, .roomClean => [0, 1]
  | _, .roomClean => [0]
  | _, .area => [0]

/-- 1 if the test holds, else 0. -/
def testFlag (b : Bool) : Byte := if b then 1 else 0

/-- `A_REST` of TESTCFG. -/
def testARest (k : Fin 2) (j : Fin 16) (S : Axes) : Byte :=
  match k.val, j.val with
  | 0, 1 => 0xC5
  | 0, 4 => testFlag (S.highPower == 1)
  | 1, 5 => (S.fanSpeed <<< 4 &&& 0xF0) ||| (S.fanV &&& 0x0F)
  | _, _ => 0

/-- `B_REST` of TESTCFG. -/
def testBRest (j : Nat) (S : Axes) : Byte :=
  match j with
  | 1 => 0x01
  | 2 => 0x10
  | 3 => (if S.power == 1 then 0x80 else 0) ||| (S.mode &&& 0x0F)
  | 6 => (S.fanSpeed <<< 4 &&& 0xF0) ||| (S.fanV &&& 0x0F)
  | 7 => testFlag (S.roomClean == 1)
  | _ => 0

/-- `C_REST` of TESTCFG; 0 at the two sum positions, where it is not read. -/
def testCRest (j : Fin 18) (S : Axes) : Byte :=
  match j.val with
  | 0 => 0x02
  | 1 => 0x20
  | 2 => 0xE0
  | 3 => 0x04
  | 5 => (S.mode <<< 4 &&& 0xF0) ||| testFlag (S.power == 1)
  | 6 => S.temp <<< 1
  | 7 => 0x80
  | 11 => 0x06
  | 12 => 0x60
  | 15 => 0x80
  | 17 => 0x06
  | _ => 0

/-- `C_FAN1` of TESTCFG; codes outside the domain, which no instance can hold, give 0. -/
def testCFan1 (S : Axes) : Byte :=
  match S.fanSpeed.toNat with
  | 0 => 0xA0
  | 1 => 0x30
  | 2 => 0x40
  | 3 => 0x50
  | 4 => 0x60
  | 5 => 0x70
  | _ => 0

/-- `C_FAN2` of TESTCFG; codes outside the domain, which no instance can hold, give 0. -/
def testCFan2 (S : Axes) : Byte :=
  match S.fanV.toNat with
  | 0 => 0x0F
  | 1 => 1
  | 2 => 2
  | 3 => 3
  | 4 => 4
  | 5 => 5
  | 15 => 0x0F
  | _ => 0

/-- `D_REST` of TESTCFG; 0 at the temperature nibble, where it is not read. -/
def testDRest (i : Nat) (S : Axes) : Nib :=
  match i with
  | 0 => 0xB
  | 1 => 0x2
  | 2 => S.fanSpeed.setWidth 4
  | 3 => S.mode.setWidth 4
  | 5 => if S.power == 1 then 8 else 0
  | _ => 0

/-- `TLUT_D` of TESTCFG. -/
def testTlutD (t : Byte) : Nib :=
  match t.toNat with
  | 18 => 1
  | 19 => 3
  | 20 => 2
  | 21 => 6
  | 22 => 7
  | 23 => 5
  | 24 => 4
  | 25 => 12
  | 26 => 13
  | 27 => 9
  | 28 => 8
  | 29 => 10
  | 30 => 11
  | _ => 0

/-- `SEGS` of TESTCFG. -/
def testSegs : Vendor → List Seg
  | .A => [.lit [3500, 1750], .data 0, .lit [430, 25000], .lit [3500, 1750], .data 1, .lit [430]]
  | .B => [.lit [3400, 1700], .data 0, .lit [420]]
  | .C => [.lit [3500, 1750], .data 0, .lit [440]]
  | .D => [.lit [4400, 4300], .data 0, .lit [560, 5000], .lit [4400, 4300], .data 0,
      .lit [560, 5000], .lit [4400, 4300], .data 1, .lit [560]]

/-- TESTCFG, the fabricated configuration of `95_test_vectors.md`: invented test data, the witness that
`WF(CFG)` can be met; it describes no real remote. -/
def testCfg : Config where
  dom v a x := (testDom v a).contains x.toNat
  sent v a := match v, a with
    | .D, .mode => 1
    | _, _ => 0
  minTemp v := match v with
    | .A => 18
    | _ => 16
  maxTemp v := match v with
    | .A => 32
    | .B => 32
    | _ => 30
  tempDefault _ := 25
  aPowerOn := 1
  aPowerOff := 2
  aModeCool := 3
  aHdr _ i := match i.val with
    | 0 => 0x11
    | 1 => 0xDA
    | _ => 0x27
  aThermo m := m == 1 || m == 3 || m == 4
  aFixt m := if m == 2 then 0xC0 else if m == 5 then 0x32 else 0
  aTpos := (1, 3)
  aPmpos := (1, 2)
  aPm p m := (m <<< 4 &&& 0xF0) ||| 0x08 ||| testFlag (p == 1)
  aRest := testARest
  bNp := 7
  bRest := testBRest
  bTmarkMin := 0xA5
  bTfpos := 4
  bTflsb := 0
  bMaxm0 := 0
  bMaxm1 := 3
  bTnib t := ~~~ (t - 16).setWidth 4
  cRest := testCRest
  cFanpos := 8
  cExtpos := 13
  cFan1 := testCFan1
  cFan2 := testCFan2
  cExt1 S := testFlag (S.highPower == 1)
  cExt2 S := if S.longFan == 1 then 0x20 else 0
  dRest := testDRest
  dTpos := 4
  tlutD := testTlutD
  dFoot i S := match i.val with
    | 0 => 0xD5
    | 1 => 0x66
    | 3 => S.fanSpeed
    | 5 => 0x3B
    | _ => 0
  mark v := match v with
    | .A => 430
    | .B => 420
    | .C => 440
    | .D => 560
  oneSpace v := match v with
    | .A => 1320
    | .B => 1250
    | .C => 1300
    | .D => 1600
  zeroSpace v := match v with
    | .A => 430
    | .B => 420
    | .C => 430
    | .D => 530
  segs := testSegs
  frameMaxBits := 160
  pulseMax := 647

/-- TESTCFG satisfies `WF(CFG)`, as `95_test_vectors.md` says. -/
theorem testCfg_wf : testCfg.WF where
  sent_mem := by intro v a; cases v <;> cases a <;> decide
  temp_pos := by intro v; cases v <;> decide
  temp_order := by intro v; cases v <;> decide
  temp_le := by intro v; cases v <;> decide
  temp_D := by decide
  temp_A := by decide
  temp_default := by intro v; cases v <;> decide
  a_members := by decide
  a_on_ne_off := by decide
  a_cool := by decide
  a_pos := by decide
  a_pm := by decide +kernel
  a_rest := by
    intro k j S p
    simp only [testCfg]
    unfold testARest
    split <;> rfl
  b_np := by decide
  b_tmark := by
    intro S _ _
    simp [testCfg, testBRest]
  b_tfpos := by decide
  b_maxm := by decide
  c_pos := by decide
  d_nb := by decide
  d_tpos := by decide
  tlut := by decide
  dur_pos := by intro v; cases v <;> decide
  spaces := by intro v; cases v <;> decide
  lit_pos := by
    intro v ds h
    cases v <;> simp [testCfg, testSegs] at h <;> aesop
  data_order := by intro v; cases v <;> simp [testCfg, testSegs, dataOrder, dataOrderOk]
  a_framed := ⟨[.lit [3500, 1750]], [.lit [430, 25000], .lit [3500, 1750]], [.lit [430]], rfl,
    ⟨[3500, 1750], by simp⟩, ⟨[430, 25000], by simp⟩, ⟨[430], by simp⟩⟩
  seg_parity := by
    intro v
    cases v
    · exact ⟨(testSegs .A).dropLast, _, rfl, rfl, by simp [testSegs]⟩
    · exact ⟨(testSegs .B).dropLast, _, rfl, rfl, by simp [testSegs]⟩
    · exact ⟨(testSegs .C).dropLast, _, rfl, rfl, by simp [testSegs]⟩
    · exact ⟨(testSegs .D).dropLast, _, rfl, rfl, by simp [testSegs]⟩
  frame_fits := by decide
  wave_fits := ⟨by intro v; cases v <;> decide, by decide⟩

end Config

/-! ## The configuration of the machine -/

/-- A configuration together with the proof that it is well-formed: the model is defined only under
`WF(CFG)` (R12), so an ill-formed configuration cannot be given to it. The default values only
witness that the type has a member. -/
structure WfConfig where
  val : Config := Config.testCfg
  wf : val.WF := by exact Config.testCfg_wf
deriving Inhabited

/-- The configuration the machine is built with: a free value. It has no body, so that what is proved of
the machine holds whatever well-formed configuration it is (R9, R40; DESIGN CHOICE, log entry 1). -/
opaque Config.given : WfConfig

/-- `CFG`: the configuration every command of the machine reads (R9). -/
abbrev Config.cfg : Config := Config.given.val

/-- `WF(CFG)` holds of the machine's configuration (R12, R344). -/
theorem Config.cfg_wf : Config.cfg.WF := Config.given.wf

end Sys2Proof
end

