-- ==== Sys2Proof/Machine/State.lean ====
section
/-! DEFINITION. The architectural state (spec R20 to R41) as plain data, the command port through which
the host drives it, the reasons a step can stop, and reset (R340). -/

namespace Sys2Proof.Machine

/-! ## What the port carries -/

/-- The seven errors of a response (R85, R301 to R308). -/
inductive Err where
  /-- `ERR_TYPE`: a value outside the domain of its axis (R301). -/
  | type
  /-- `ERR_MODEL`: an unregistered vendor identifier (R302). -/
  | model
  /-- `ERR_FATAL`: an encoding aborted (R303). -/
  | fatal
  /-- `ERR_NOINST`: no instance (R305). -/
  | noinst
  /-- `ERR_ILLEGAL`: the word is not a command (R306). -/
  | illegal
  /-- `ERR_RANGE`: an index outside the buffer (R307). -/
  | range
  /-- `ERR_STALE`: a buffer not valid for the present state (R308). -/
  | stale
deriving DecidableEq, Repr

/-- The code of a response: `OKAY` or one of the seven errors (R85, R300). The reserved codes 8..15
have no constructor (R94). -/
inductive RespCode where
  | okay
  | err (e : Err)
deriving DecidableEq, Repr

/-- The response to one command: a code and a 32-bit data word (R84). -/
structure Response where
  code : RespCode
  data : Word
deriving DecidableEq, Repr

/-- The events of the output event trace; there is one, `Save` (R35). -/
inductive Event where
  | save
deriving DecidableEq, Repr

/-- What can arrive at the block: a command word on the command port (R28, R64), or the reset input
`rst` (R340). -/
inductive Input where
  | command (w : Word)
  | reset
deriving DecidableEq, Repr

/-! ## The state of the block (R41) -/

/-- The bits of one frame, bit index 0 the first transmitted; `FLEN[f]` is the length (R36, R52). -/
abbrev Frame := List Bit

/-- The pulse durations of a wave, entry 0 the first mark; `WLEN` is the length (R38). -/
abbrev Wave := List Dur

/-- A constructed instance: `VENDOR` and the axis registers (R19, R20, R21). -/
structure Appliance where
  /-- `VENDOR`, 8 bits wide when read (R125); identifiers 4..255 can never be held (R21). -/
  vendor : Vendor
  /-- `AX[0]`..`AX[9]` (R20). -/
  ax : Axes
deriving DecidableEq, Repr

/-- The architectural state of R41. An item the spec calls unspecified and unobservable is held as
absent, as R41 asks; the status bit that closes its read path is its presence: `STATUS.INST` that of
`app` (R31), `STATUS.FVALID` that of `frames` (R33), `STATUS.WVALID` that of `wave` (R34). One field for
a valid bit and what it guards is a DESIGN CHOICE (log entry 5). -/
structure Block where
  /-- `STATUS.INST`, `VENDOR`, `AX[0..9]`: the instance, of which the block holds at most one (R19, R31). -/
  app : Option Appliance
  /-- `STATUS.FVALID`, `NFR`, `FLEN[f]`, `FB[f]`: the frame buffer (R33, R36). -/
  frames : Option (List Frame)
  /-- `STATUS.WVALID`, `WLEN`, `PB`: the pulse buffer (R34, R38). -/
  wave : Option Wave
  /-- `STATUS.FATAL`, sticky (R32). -/
  fatal : Bool
  /-- The output event trace, oldest first (R35). -/
  trace : List Event
deriving DecidableEq, Repr

/-- The command port and the output strobe: the model's own fields, through which a deterministic step
meets the host (DESIGN CHOICE, log entries 3 and 4). -/
structure Port where
  /-- What the host has given and the block has not yet looked at, first to be taken first (R63). -/
  pending : List Input
  /-- The response to the latest command, absent before the first (R84). -/
  resp : Option Response
  /-- The strobe `save_req`: the latest command emitted `Save` (R35, R358). -/
  saveReq : Bool
deriving DecidableEq, Repr

/-- The state of the machine: the block's architectural state and its port. -/
structure State where
  /-- The state the spec gives the block (R41). -/
  block : Block
  /-- The command port (R64, R80, R84) and the strobe `save_req` (R35). -/
  port : Port
deriving DecidableEq, Repr

/-! ## Reset -/

/-- The block after reset: the reset column of R41 (R340). -/
def Block.reset : Block where
  app := none
  frames := none
  wave := none
  fatal := false
  trace := []

/-- The machine after reset: the block of R41, and a port on which nothing has happened yet. -/
def State.reset : State where
  block := Block.reset
  port := { pending := [], resp := none, saveReq := false }

/-! ## Why a step can stop -/

/-- The machine has no faults: every error is a response and the block goes on (R300, R314), so this type
has no constructor. Nobody raises one; that is safe, because nothing can be claimed to fault. -/
inductive Fault where
deriving DecidableEq, Repr

/-- The refusals of a step. -/
inductive Refusal where
  /-- Raised by `exec` for a command without a meaning. Safe: the machine stops where the hardware goes
  on. Every command has its meaning, so no step raises it. -/
  | notModelled (mnemonic : String)
deriving DecidableEq, Repr

/-! ## The form of the output buffers -/

/-- The form of the two output memories: at most two frames, each within `FRAME_MAX_BITS` (R36, R37), and
a wave within `PULSE_MAX` (R39). The spaces are not byte-addressed (R50): each is a dense list of its
own cells from index 0, so equal memories are equal data without any further canonical form (DESIGN CHOICE,
log entry 9). -/
def Memory.wf (c : Config) (b : Block) : Bool :=
  (match b.frames with
    | none => true
    | some fs => decide (fs.length ≤ 2) && fs.all fun f => decide (f.length ≤ c.frameMaxBits)) &&
  (match b.wave with
    | none => true
    | some w => decide (w.length ≤ c.pulseMax))

end Sys2Proof.Machine
end

