-- ==== Sys2Proof/Machine/Engines.lean ====
section
/-! DEFINITION. The engines of spec `41_engines.md`: bit reversal, complements, nibble packing, checksum
arithmetic, packing into bits, and the temperature functions, each a pure function. -/

namespace Sys2Proof.Machine

/-! ## Reversal, complement, nibble packing -/

/-- `REV8(x) = (x[0],x[1],...,x[7])`, most significant first: bit `i` is bit `7-i` of `x` (R140). -/
def rev8 (x : Byte) : Byte :=
  BitVec.ofBoolListBE [x[0], x[1], x[2], x[3], x[4], x[5], x[6], x[7]]

/-- `CPL8(x) = 255 - x`, every bit inverted (R142). -/
def cpl8 (x : Byte) : Byte := ~~~x

/-- `CPL4(n) = 15 - n` (R143). -/
def cpl4 (n : Nib) : Nib := ~~~n

/-- `NIBP(n) = n || CPL4(n)` (R144). -/
def nibp (n : Nib) : Byte := n ++ cpl4 n

/-! ## Checksum arithmetic -/

/-- `ADD8(y, x) = (x + y) mod 256`; the carry is discarded (R145). -/
def add8 (y x : Byte) : Byte := y + x

/-- `SUM8(bs)`, accumulated in 8 bits (R146). -/
def sum8 (bs : List Byte) : Byte := bs.foldl add8 0

/-- `CKREP(c)`: the byte of a checksum value about to be packed, or the abort when it does not fit (R149). -/
def ckRep (c : Nat) : Option Byte := if c > 255 then none else some (BitVec.ofNat 8 c)

/-- `SUM2(x, y)`: the arithmetic sum as a byte, or the abort when it exceeds 255 (R154). -/
def sum2 (x y : Byte) : Option Byte :=
  if x.toNat + y.toNat > 255 then none else some (BitVec.ofNat 8 (x.toNat + y.toNat))

/-! ## Packing bytes into bits -/

/-- The bits of a transmitted byte, most significant first (R52). -/
def byteBits (b : Byte) : List Bit := [b[7], b[6], b[5], b[4], b[3], b[2], b[1], b[0]]

/-- `PACK(T)`: element `8n + k` is `T[n][7-k]` (R147). -/
def pack (bytes : List Byte) : Frame := bytes.flatMap byteBits

/-! ## Temperature engines -/

/-- `TLUT_D(t)` (R150). -/
def tlutD (c : Config) (t : Byte) : Nib := c.tlutD t

/-- `B_TNIB(t)` (R151). -/
def tnibB (c : Config) (t : Byte) : Nib := c.bTnib t

/-- `TCODE_A(m, t)`: `(2 x t) mod 256` in a thermostat mode, else the fixed code of the mode (R152). -/
def tcodeA (c : Config) (m t : Byte) : Byte := if c.aThermo m then 2 * t else c.aFixt m

/-- `TFIELD_B(t) = M || B_TNIB(t)`, `M` the is-max marker (R153). -/
def tfieldB (c : Config) (t : Byte) : BitVec 6 :=
  (if t = c.maxTemp .B then c.bMaxm1 else c.bMaxm0) ++ tnibB c t

end Sys2Proof.Machine
end

