-- ==== Sys2Proof/Machine/Encoders.lean ====
section
/-! DEFINITION. The four vendor frame encoders (spec `42_encoder_a.md` to `45_encoder_d.md`) and the
vendor dispatch (R250), as pure functions of `CFG` and the Appliance State. `none` is the abort
`ERR_FATAL`. Logical bytes are before any bit reversal (R18). -/

namespace Sys2Proof.Machine

/-! ## Vendor A -/

/-- The logical payload byte `A_PAY(k, j, S)` (R172 to R174). -/
def aPay (c : Config) (k : Fin 2) (j : Fin 16) (S : Axes) : Byte :=
  if (k, j) = c.aTpos then tcodeA c S.mode S.temp
  else if (k, j) = c.aPmpos then c.aPm S.power S.mode
  else c.aRest k j S

/-- The three header bytes of block `k` (R176). -/
def aHeader (c : Config) (k : Fin 2) : List Byte := List.ofFn fun i => c.aHdr k i

/-- The sixteen payload bytes of block `k` (R172). -/
def aPayload (c : Config) (k : Fin 2) (S : Axes) : List Byte := List.ofFn fun j => aPay c k j S

/-- The checksum `ck(k)`: over the payload, and over the header too if `A_CK_HDR` (R175). -/
def aSum (c : Config) (k : Fin 2) (S : Axes) : Byte :=
  if c.aCkHdr then sum8 (aHeader c k ++ aPayload c k S) else sum8 (aPayload c k S)

/-- The twenty logical bytes `L(k)` (R175, R176). -/
def aLogical (c : Config) (k : Fin 2) (S : Axes) : Option (List Byte) :=
  (ckRep (aSum c k S).toNat).map fun ck => aHeader c k ++ aPayload c k S ++ [ck]

/-- The frame `Fk`: every byte reversed, then packed (R177). -/
def aFrame (c : Config) (k : Fin 2) (S : Axes) : Option Frame :=
  (aLogical c k S).map fun L => pack (L.map rev8)

/-- `encode_A(CFG, S) = [F0, F1]` (R179). -/
def encodeA (c : Config) (S : Axes) : Option (List Frame) :=
  (aFrame c 0 S).bind fun f0 => (aFrame c 1 S).map fun f1 => [f0, f1]

/-! ## Vendor B -/

/-- The literal that holds the temperature field: six bits of `B_REST` replaced (R192, R195). -/
def bFieldByte (c : Config) (rest : Byte) (t : Byte) : Byte :=
  (rest &&& ~~~ (0x3F#8 <<< c.bTflsb.val)) ||| ((tfieldB c t).setWidth 8 <<< c.bTflsb.val)

/-- The literal byte `B_LIT(j, S)`, `j` counted from 1 (R192, R193). -/
def bLit (c : Config) (j : Nat) (S : Axes) : Byte :=
  if j = 5 then (if S.temp = c.minTemp .B then c.bTmarkMin else c.bRest 5 S)
  else if j = c.bTfpos then bFieldByte c (c.bRest j S) S.temp
  else c.bRest j S

/-- The `2 x B_NP` logical bytes: each literal, then its complement (R196). -/
def bLogical (c : Config) (S : Axes) : List Byte :=
  (List.range c.bNp).flatMap fun n => [bLit c (n + 1) S, cpl8 (bLit c (n + 1) S)]

/-- The transmitted bytes: as they are, or reversed if `B_LSB_FIRST` (R54, R197). -/
def bTransmitted (c : Config) (S : Axes) : List Byte :=
  if c.bLsbFirst then (bLogical c S).map rev8 else bLogical c S

/-- `encode_B(CFG, S) = [F0]` (R199). -/
def encodeB (c : Config) (S : Axes) : Option (List Frame) := some [pack (bTransmitted c S)]

/-! ## Vendor C -/

/-- The body byte `C_BODY(j, S)`, given the two sums (R212). -/
def cBody (c : Config) (fan ext : Byte) (j : Fin 18) (S : Axes) : Byte :=
  if j = c.cFanpos then fan else if j = c.cExtpos then ext else c.cRest j S

/-- The eighteen body bytes; a sum that does not fit aborts (R212). -/
def cBytes (c : Config) (S : Axes) : Option (List Byte) :=
  (sum2 (c.cFan1 S) (c.cFan2 S)).bind fun fan =>
    (sum2 (c.cExt1 S) (c.cExt2 S)).map fun ext => List.ofFn fun j => cBody c fan ext j S

/-- The checksum over the body bytes, logical or reversed as `C_CK_REV` says (R214). -/
def cSum (c : Config) (body : List Byte) : Byte :=
  if c.cCkRev then sum8 (body.map rev8) else sum8 body

/-- The nineteen transmitted bytes: the body reversed, the checksum byte as it is (R55, R214 to R217). -/
def cTransmitted (c : Config) (S : Axes) : Option (List Byte) :=
  (cBytes c S).bind fun body => (ckRep (cSum c body).toNat).map fun ck => body.map rev8 ++ [ck]

/-- `encode_C(CFG, S) = [F0]` or the abort (R219). -/
def encodeC (c : Config) (S : Axes) : Option (List Frame) :=
  (cTransmitted c S).map fun bytes => [pack bytes]

/-! ## Vendor D -/

/-- The data nibble `D_NIB(i, S)` (R233). -/
def dNib (c : Config) (i : Nat) (S : Axes) : Nib :=
  if i = c.dTpos then tlutD c S.temp else c.dRest i S

/-- The bytes of the main frame: each data nibble with its complement (R234, R236). -/
def dMain (c : Config) (S : Axes) : List Byte := (List.range c.dNb).map fun i => nibp (dNib c i S)

/-- The six bytes of the footer (R235, R236). -/
def dFooter (c : Config) (S : Axes) : List Byte := List.ofFn fun i => c.dFoot i S

/-- `encode_D(CFG, S) = [F0, F1]` (R237, R239). -/
def encodeD (c : Config) (S : Axes) : Option (List Frame) :=
  some [pack (dMain c S), pack (dFooter c S)]

/-! ## Dispatch -/

/-- `encode(CFG, v, S)` (R250). -/
def encodeFrames (c : Config) (v : Vendor) (S : Axes) : Option (List Frame) :=
  match v with
  | .A => encodeA c S
  | .B => encodeB c S
  | .C => encodeC c S
  | .D => encodeD c S

end Sys2Proof.Machine
end

