-- ==== Sys2Proof/WellFormed.lean ====
section
/-! DEFINITION. Which terms of `Instr` are legal commands (spec R93 (d), (e)): axis numbers 10..15 and
`INFO` selectors 6..15 do not exist. Every other illegal word of R93 has no term of `Instr` at all. -/

namespace Sys2Proof

/-- An axis number names an axis register: 0..9 (R20, R93 (d)). -/
def axisNumOk (a : BitVec 4) : Bool := decide (a.toNat ≤ 9)

/-- An `INFO` selector is assigned: 0..5 (R93 (e)). -/
def selectorNumOk (s : BitVec 4) : Bool := decide (s.toNat ≤ 5)

/-- The legal commands (R93). -/
def Instr.wellFormed : Instr → Bool
  | .nop => true
  | .init _ => true
  | .set a _ => axisNumOk a
  | .get a => axisNumOk a
  | .capq a _ => axisNumOk a
  | .info s => selectorNumOk s
  | .enc => true
  | .asm => true
  | .flen _ => true
  | .rdbit _ _ => true
  | .wlen => true
  | .rdpulse _ => true
  | .engRev8 _ => true
  | .engCpl8 _ => true
  | .engCpl4 _ => true
  | .engNibp _ => true
  | .engAdd8 _ _ => true
  | .engTlutd _ => true
  | .engTnibb _ => true
  | .engTcodea _ _ => true
  | .engTfldb _ => true

end Sys2Proof
end

