-- ==== Sys2Proof/Decode.lean ====
section
/-! DEFINITION. Decoding and encoding of the 32-bit command word (spec R80 to R95). `decode` is total:
every word is one legal command with its operands, or is rejected by name with the clause of R93
that makes it illegal. `encode` writes the word of a command from the same tables. -/

namespace Sys2Proof

/-- Why a word is not a command: the clauses (a) to (g) of R93. -/
inductive Illegal where
  /-- (a) `op` is 0xD, 0xE or 0xF. -/
  | reservedOpcode
  /-- (b) the `z` field is not 0. -/
  | zField
  /-- (c) a field the command does not use is not 0. -/
  | unusedField
  /-- (d) `SET`, `GET` or `CAPQ` with axis number 10..15. -/
  | noSuchAxis
  /-- (e) `INFO` with selector 6..15. -/
  | noSuchSelector
  /-- (f) `FLEN` or `RDBIT` with frame number 2..15. -/
  | noSuchFrame
  /-- (g) `ENG` with sub-opcode 9..15. -/
  | reservedSubOpcode
deriving DecidableEq, Repr

/-! ## The fields of a word (R80) -/

/-- `op`, bits 31..28. -/
def opField (w : Word) : BitVec 4 := w.extractLsb' 28 4
/-- `a`, bits 27..24. -/
def aField (w : Word) : BitVec 4 := w.extractLsb' 24 4
/-- `z`, bits 23..16. -/
def zField (w : Word) : Byte := w.extractLsb' 16 8
/-- `hi`, bits 15..8. -/
def hiField (w : Word) : Byte := w.extractLsb' 8 8
/-- `lo`, bits 7..0. -/
def loField (w : Word) : Byte := w.extractLsb' 0 8

/-- `imm16 = hi || lo` (R80, R81). -/
def imm16 (hi lo : Byte) : BitVec 16 := hi ++ lo

/-- The word with the given fields and `z = 0` (R80). -/
def mkWord (op a : BitVec 4) (hi lo : Byte) : Word := op ++ a ++ 0#8 ++ hi ++ lo

/-! ## Decode (R87, R89, R93) -/

/-- The command `i`, if the fields it does not use are all zero (R82, R93 (c)). -/
def ifUnusedZero (unusedZero : Bool) (i : Instr) : Except Illegal Instr :=
  if unusedZero then .ok i else .error .unusedField

/-- A command with an axis operand (R93 (d)). -/
def withAxisField (a : BitVec 4) (r : Except Illegal Instr) : Except Illegal Instr :=
  if axisNumOk a then r else .error .noSuchAxis

/-- A command with a frame operand: `a` is 0 or 1 (R93 (f)). -/
def withFrameField (a : BitVec 4) (r : BitVec 1 → Except Illegal Instr) : Except Illegal Instr :=
  if a.toNat ≤ 1 then r (a.extractLsb' 0 1) else .error .noSuchFrame

/-- The `ENG` sub-opcodes (R89); a sub-opcode without `y` requires `hi = 0`, the two nibble operations
also `lo[7:4] = 0`. -/
def decodeEng (a : BitVec 4) (hi lo : Byte) : Except Illegal Instr :=
  match a.toNat with
  | 0 => ifUnusedZero (hi == 0) (.engRev8 lo)
  | 1 => ifUnusedZero (hi == 0) (.engCpl8 lo)
  | 2 => ifUnusedZero (hi == 0 && lo.extractLsb' 4 4 == 0) (.engCpl4 (lo.extractLsb' 0 4))
  | 3 => ifUnusedZero (hi == 0 && lo.extractLsb' 4 4 == 0) (.engNibp (lo.extractLsb' 0 4))
  | 4 => .ok (.engAdd8 hi lo)
  | 5 => ifUnusedZero (hi == 0) (.engTlutd lo)
  | 6 => ifUnusedZero (hi == 0) (.engTnibb lo)
  | 7 => .ok (.engTcodea hi lo)
  | 8 => ifUnusedZero (hi == 0) (.engTfldb lo)
  | _ => .error .reservedSubOpcode

/-- The opcode map on the fields of a word whose `z` is 0 (R87). -/
def decodeFields (op a : BitVec 4) (hi lo : Byte) : Except Illegal Instr :=
  match op.toNat with
  | 0x0 => ifUnusedZero (a == 0 && hi == 0 && lo == 0) .nop
  | 0x1 => ifUnusedZero (a == 0 && hi == 0) (.init lo)
  | 0x2 => withAxisField a (ifUnusedZero (hi == 0) (.set a lo))
  | 0x3 => withAxisField a (ifUnusedZero (hi == 0 && lo == 0) (.get a))
  | 0x4 => withAxisField a (ifUnusedZero (hi == 0) (.capq a lo))
  | 0x5 => if selectorNumOk a then ifUnusedZero (hi == 0 && lo == 0) (.info a) else .error .noSuchSelector
  | 0x6 => ifUnusedZero (a == 0 && hi == 0 && lo == 0) .enc
  | 0x7 => ifUnusedZero (a == 0 && hi == 0 && lo == 0) .asm
  | 0x8 => withFrameField a fun f => ifUnusedZero (hi == 0 && lo == 0) (.flen f)
  | 0x9 => withFrameField a fun f => .ok (.rdbit f (imm16 hi lo))
  | 0xA => ifUnusedZero (a == 0 && hi == 0 && lo == 0) .wlen
  | 0xB => ifUnusedZero (a == 0) (.rdpulse (imm16 hi lo))
  | 0xC => decodeEng a hi lo
  | _ => .error .reservedOpcode

/-- Decoding of a command word, a function of the word alone (R95). -/
def decode (w : Word) : Except Illegal Instr :=
  if zField w == 0 then decodeFields (opField w) (aField w) (hiField w) (loField w)
  else .error .zField

/-! ## Encode (R87, R89) -/

/-- The word of a command, from the patterns of R87 and R89. On a term that is not `wellFormed` it is
the word those fields make, which `decode` rejects. -/
def encode : Instr → Word
  | .nop => mkWord 0x0 0 0 0
  | .init v => mkWord 0x1 0 0 v
  | .set a x => mkWord 0x2 a 0 x
  | .get a => mkWord 0x3 a 0 0
  | .capq a c => mkWord 0x4 a 0 c
  | .info s => mkWord 0x5 s 0 0
  | .enc => mkWord 0x6 0 0 0
  | .asm => mkWord 0x7 0 0 0
  | .flen f => mkWord 0x8 (f.setWidth 4) 0 0
  | .rdbit f i => mkWord 0x9 (f.setWidth 4) (i.extractLsb' 8 8) (i.extractLsb' 0 8)
  | .wlen => mkWord 0xA 0 0 0
  | .rdpulse i => mkWord 0xB 0 (i.extractLsb' 8 8) (i.extractLsb' 0 8)
  | .engRev8 x => mkWord 0xC 0 0 x
  | .engCpl8 x => mkWord 0xC 1 0 x
  | .engCpl4 x => mkWord 0xC 2 0 (x.setWidth 8)
  | .engNibp x => mkWord 0xC 3 0 (x.setWidth 8)
  | .engAdd8 y x => mkWord 0xC 4 y x
  | .engTlutd x => mkWord 0xC 5 0 x
  | .engTnibb x => mkWord 0xC 6 0 x
  | .engTcodea y x => mkWord 0xC 7 y x
  | .engTfldb x => mkWord 0xC 8 0 x

/-- The instruction the decoder reads from a word given as a number, bit 0 the least significant bit
of the command word, every bit from `nbits` up being 0. A command is one 32-bit word (R80), so there
is no second word and no byte order to lay out (R58). -/
def decodeTableWord (nbits w : Nat) : Option Instr :=
  match decode (BitVec.ofNat 32 (w % 2 ^ nbits)) with
  | .ok i => some i
  | .error _ => none

end Sys2Proof
end

