-- ==== Sys2Proof/Machine/Flags.lean ====
section
/-! DEFINITION. The status register (spec R30 to R34). The block computes no condition codes (R29);
its only status bits are the four of R30. -/

namespace Sys2Proof.Machine

/-- The four bits of `STATUS` (R30). -/
structure Status where
  inst : Bool
  fvalid : Bool
  wvalid : Bool
  fatal : Bool
deriving DecidableEq, Repr

/-- `STATUS` as a register: bits 3..0 are `FATAL`, `WVALID`, `FVALID`, `INST` (R30, R125). -/
def statusBits (t : Status) : BitVec 4 :=
  BitVec.ofBool t.fatal ++ BitVec.ofBool t.wvalid ++ BitVec.ofBool t.fvalid ++ BitVec.ofBool t.inst

/-- The status bits of a block (R31 to R34). -/
def statusOf (b : Block) : Status where
  inst := b.app.isSome
  fvalid := b.frames.isSome
  wvalid := b.wave.isSome
  fatal := b.fatal

/-- Clearing `FVALID` and `WVALID`: both buffers become unobservable, hence absent (R30, R41). -/
def clearValid (b : Block) : Block := { b with frames := none, wave := none }

/-- The status bits an aborted encoding leaves: `FATAL` set, `FVALID` and `WVALID` cleared (R253, R303). -/
def setFatal (b : Block) : Block := { clearValid b with fatal := true }

end Sys2Proof.Machine
end

