-- ==== Sys2Proof/Machine/Operands.lean ====
section
/-! DEFINITION. The operand forms (spec R81): every operand is an unsigned field of the command word.
Here the fields become the things they name: axis registers, vendors, `INFO` selectors, frame and
cell indices, and 32-bit response data by zero extension. -/

namespace Sys2Proof.Machine

/-- `zext_32(v)` (R8). -/
def zext32 {n : Nat} (v : BitVec n) : Word := v.setWidth 32

/-- A count or length as response data (R253, R255, R281, R282). -/
def countData (n : Nat) : Word := BitVec.ofNat 32 n

/-- One bit as response data (R122, R256). -/
def bitData (b : Bool) : Word := if b then 1 else 0

/-- The axis register a number names; 10..15 name none (R20, R93 (d)). -/
def axisOf (a : BitVec 4) : Option Axis :=
  match a.toNat with
  | 0 => some .power
  | 1 => some .mode
  | 2 => some .temp
  | 3 => some .fanV
  | 4 => some .fanH
  | 5 => some .fanSpeed
  | 6 => some .highPower
  | 7 => some .longFan
  | 8 => some .roomClean
  | 9 => some .area
  | _ => none

/-- The number of an axis register (R20). -/
def axisNum : Axis → BitVec 4
  | .power => 0
  | .mode => 1
  | .temp => 2
  | .fanV => 3
  | .fanH => 4
  | .fanSpeed => 5
  | .highPower => 6
  | .longFan => 7
  | .roomClean => 8
  | .area => 9

/-- The vendor an identifier names; 4..255 are not registered (R21). -/
def vendorOf (v : Byte) : Option Vendor :=
  match v.toNat with
  | 0 => some .A
  | 1 => some .B
  | 2 => some .C
  | 3 => some .D
  | _ => none

/-- The 8-bit identifier of a vendor, the contents of `VENDOR` (R21). -/
def vendorCode : Vendor → Byte
  | .A => 0
  | .B => 1
  | .C => 2
  | .D => 3

/-- The `INFO` selector a number names; 6..15 name none (R93 (e), R125). -/
def selectorOf (s : BitVec 4) : Option Selector :=
  match s.toNat with
  | 0 => some .vendor
  | 1 => some .minTemp
  | 2 => some .maxTemp
  | 3 => some .tempStep
  | 4 => some .status
  | 5 => some .nfr
  | _ => none

/-- The number of an `INFO` selector (R101). -/
def selectorNum : Selector → BitVec 4
  | .vendor => 0
  | .minTemp => 1
  | .maxTemp => 2
  | .tempStep => 3
  | .status => 4
  | .nfr => 5

/-- The 4-bit number of a response code (R85). -/
def respCodeNum : RespCode → BitVec 4
  | .okay => 0
  | .err .type => 1
  | .err .model => 2
  | .err .fatal => 3
  | .err .noinst => 4
  | .err .illegal => 5
  | .err .range => 6
  | .err .stale => 7

end Sys2Proof.Machine
end

