-- ==== Sys2Proof/Machine/Ops.lean ====
section
/-! DEFINITION. The named operations every command is built from: responding, raising an error (the
block's one way of taking an exception, spec R300 to R315), emitting `Save`, the tests of R310 in
their order, the cells of the address spaces (R50), and taking the next input from the port. -/

namespace Sys2Proof.Machine

/-! ## Responding and raising -/

/-- `respond(code, data)`: the response that ends a command (R8, R84). The strobe `save_req` of an earlier
command does not outlast it (R358). -/
def respond (code : RespCode) (data : Word) (s : State) : State :=
  { s with port := { s.port with resp := some { code := code, data := data }, saveReq := false } }

/-- `respond(OKAY, data)` (R8). -/
def okay (data : Word) (s : State) : State := respond .okay data s

/-- What an error changes in the block: nothing, but for `ERR_FATAL` (R312). -/
def errBlock (e : Err) (b : Block) : Block :=
  match e with
  | .fatal => setFatal b
  | _ => b

/-- `raise <Err>`: taking an error, the block's one kind of exception (R300, R312). The response carries the
code and the data word 0 (R84); nothing is saved and control goes nowhere, so there is no return
from it: the next command is taken as after any other (R314). -/
def raise (e : Err) (s : State) : State := respond (.err e) 0 { s with block := errBlock e s.block }

/-- `emit Save` by the command that has just responded: one event on the trace and the strobe
`save_req` (R35). -/
def emitSave (s : State) : State :=
  { block := { s.block with trace := s.block.trace ++ [.save] }
    port := { s.port with saveReq := true } }

/-! ## The tests of R310, in their order -/

/-- `if STATUS.INST = 0 then raise ERR_NOINST` (R305, step 2 of R310). -/
def withInstance (s : State) (k : Appliance → State) : State :=
  match s.block.app with
  | none => raise .noinst s
  | some p => k p

/-- `if STATUS.FVALID = 0 then raise ERR_STALE` (R308, step 3 of R310). -/
def withFrames (s : State) (k : List Frame → State) : State :=
  match s.block.frames with
  | none => raise .stale s
  | some fs => k fs

/-- `if STATUS.WVALID = 0 then raise ERR_STALE` (R308, step 3 of R310). -/
def withWave (s : State) (k : Wave → State) : State :=
  match s.block.wave with
  | none => raise .stale s
  | some w => k w

/-- An axis operand; a number above 9 is an illegal command (R59, R93 (d), step 1 of R310). No word decodes to
such a term; that a meaning given one answers as the word would is a DESIGN CHOICE (log entry 6). -/
def withAxis (a : BitVec 4) (s : State) (k : Axis → State) : State :=
  match axisOf a with
  | none => raise .illegal s
  | some ax => k ax

/-- An `INFO` selector operand; a number above 5 is an illegal command (R59, R93 (e)). -/
def withSelector (n : BitVec 4) (s : State) (k : Selector → State) : State :=
  match selectorOf n with
  | none => raise .illegal s
  | some sel => k sel

/-! ## The address spaces (R50) -/

/-- `AX[a] <- w` on the record of the axis registers (R8). -/
def setAxis (S : Axes) (a : Axis) (w : Byte) : Axes :=
  match a with
  | .power => { S with power := w }
  | .mode => { S with mode := w }
  | .temp => { S with temp := w }
  | .fanV => { S with fanV := w }
  | .fanH => { S with fanH := w }
  | .fanSpeed => { S with fanSpeed := w }
  | .highPower => { S with highPower := w }
  | .longFan => { S with longFan := w }
  | .roomClean => { S with roomClean := w }
  | .area => { S with area := w }

/-- The `AXIS` space: `AX[a]`, absent while there is no instance (R31, R50). -/
def readAxis (b : Block) (a : Axis) : Option Byte := b.app.map fun p => p.ax.get a

/-- The `FRAME` space: `FB[f][i]`, absent outside `f < NFR`, `i < FLEN[f]` (R50, R59). -/
def readBit (fs : List Frame) (f i : Nat) : Option Bit := fs[f]?.bind fun fr => fr[i]?

/-- `FLEN[f]`, absent outside `f < NFR` (R36, R59). -/
def readFlen (fs : List Frame) (f : Nat) : Option Nat := fs[f]?.map List.length

/-- The `PULSE` space: `PB[i]`, absent outside `i < WLEN` (R50, R59). -/
def readPulse (w : Wave) (i : Nat) : Option Dur := w[i]?

/-- The flat bitstring of an instance: the frames joined in frame order (R36, R257). -/
def flatBits (fs : List Frame) : List Bit := fs.flatten

/-- The accepted write of `SET`: `AX[a] <- w`, and both valid bits cleared (R116). -/
def writeAxis (p : Appliance) (a : Axis) (w : Byte) (s : State) : State :=
  { s with block := { clearValid s.block with app := some { p with ax := setAxis p.ax a w } } }

/-- The construction of an instance by `INIT`: `VENDOR` and all ten axis registers, `INST` set, both
valid bits cleared; `FATAL` and the trace are kept (R111). -/
def construct (p : Appliance) (s : State) : State :=
  { s with block := { clearValid s.block with app := some p } }

/-- Latching the frames of a successful encoding: the whole `FRAME` space at once, `FVALID` set, `WVALID`
kept (R60, R253). -/
def latchFrames (fs : List Frame) (s : State) : State :=
  { s with block := { s.block with frames := some fs } }

/-- Latching frames and wave of a successful `ASM`: both spaces at once, `FVALID` and `WVALID` set (R281). -/
def latchWave (fs : List Frame) (w : Wave) (s : State) : State :=
  { s with block := { s.block with frames := some fs, wave := some w } }

/-! ## The port -/

/-- What the block finds at its port. -/
inductive Fetched where
  /-- Nothing is pending: the block waits (R320, R341). -/
  | idle
  /-- The reset input (R340). -/
  | reset (s : State)
  /-- A word that is no command (R93). -/
  | illegal (s : State)
  /-- A command. -/
  | command (i : Instr) (s : State)

/-- Looking at the next input: it is taken from the port, and a command word is decoded (R63, R95). -/
def fetch (s : State) : Fetched :=
  match s.port.pending with
  | [] => .idle
  | .reset :: rest => .reset { s with port := { s.port with pending := rest } }
  | .command w :: rest =>
    match decode w with
    | .ok i => .command i { s with port := { s.port with pending := rest } }
    | .error _ => .illegal { s with port := { s.port with pending := rest } }

/-- Reset between two commands (R340, R341): the block as in R41, no response and no strobe; what the host
has still pending stays pending (DESIGN CHOICE, log entry 4). -/
def takeReset (s : State) : State :=
  { block := Block.reset, port := { s.port with resp := none, saveReq := false } }

/-- A word that is no command: `ERR_ILLEGAL`, no other effect (R93, R306). -/
def takeIllegal (s : State) : State := raise .illegal s

/-- A command word placed where the block looks next. -/
def placeCommand (s : State) (w : Word) : State :=
  { s with port := { s.port with pending := .command w :: s.port.pending } }

end Sys2Proof.Machine
end

