-- ==== Sys2Proof/Machine/EncodeCommands.lean ====
section
/-! DEFINITION. The encode commands (spec `46_encode_commands.md`): `ENC`, `FLEN`, `RDBIT`. -/

namespace Sys2Proof.Machine

/-- `ENC` (R253, R254). -/
def encCmd (c : WfConfig) (s : State) : State :=
  withInstance s fun p =>
    match encodeFrames c.val p.vendor p.ax with
    | none => raise .fatal s
    | some fs => okay (countData fs.length) (latchFrames fs s)

/-- The meaning of `ENC` (R253). -/
def execEnc (s : State) : Host.Outcome State Fault Refusal := .next (encCmd Config.given s)

/-- `FLEN f` (R255). -/
def flenCmd (f : BitVec 1) (s : State) : State :=
  withInstance s fun _ => withFrames s fun fs =>
    match readFlen fs f.toNat with
    | none => raise .range s
    | some n => okay (countData n) s

/-- The meaning of `FLEN` (R255). -/
def execFlen (f : BitVec 1) (s : State) : Host.Outcome State Fault Refusal := .next (flenCmd f s)

/-- `RDBIT f, i` (R256). -/
def rdbitCmd (f : BitVec 1) (i : BitVec 16) (s : State) : State :=
  withInstance s fun _ => withFrames s fun fs =>
    match readBit fs f.toNat i.toNat with
    | none => raise .range s
    | some b => okay (bitData b) s

/-- The meaning of `RDBIT` (R256). -/
def execRdbit (f : BitVec 1) (i : BitVec 16) (s : State) : Host.Outcome State Fault Refusal :=
  .next (rdbitCmd f i s)

end Sys2Proof.Machine
end

