-- ==== Sys2Proof/Machine/EngCommands.lean ====
section
/-! DEFINITION. The `ENG` commands (spec R160): one engine evaluated on its operands. They need no instance,
change no state and have no error; the four table engines read the tables of their own vendors whatever
`VENDOR` holds. -/

namespace Sys2Proof.Machine

/-- `ENG.REV8 x` (R140, R160). -/
def engRev8Cmd (x : Byte) (s : State) : State := okay (zext32 (rev8 x)) s

/-- The meaning of `ENG.REV8` (R160). -/
def execEngRev8 (x : Byte) (s : State) : Host.Outcome State Fault Refusal :=
  .next (engRev8Cmd x s)

/-- `ENG.CPL8 x` (R142, R160). -/
def engCpl8Cmd (x : Byte) (s : State) : State := okay (zext32 (cpl8 x)) s

/-- The meaning of `ENG.CPL8` (R160). -/
def execEngCpl8 (x : Byte) (s : State) : Host.Outcome State Fault Refusal :=
  .next (engCpl8Cmd x s)

/-- `ENG.CPL4 x` (R143, R160). -/
def engCpl4Cmd (x : Nib) (s : State) : State := okay (zext32 (cpl4 x)) s

/-- The meaning of `ENG.CPL4` (R160). -/
def execEngCpl4 (x : Nib) (s : State) : Host.Outcome State Fault Refusal :=
  .next (engCpl4Cmd x s)

/-- `ENG.NIBP x` (R144, R160). -/
def engNibpCmd (x : Nib) (s : State) : State := okay (zext32 (nibp x)) s

/-- The meaning of `ENG.NIBP` (R160). -/
def execEngNibp (x : Nib) (s : State) : Host.Outcome State Fault Refusal :=
  .next (engNibpCmd x s)

/-- `ENG.ADD8 y, x` (R145, R160). -/
def engAdd8Cmd (y x : Byte) (s : State) : State := okay (zext32 (add8 y x)) s

/-- The meaning of `ENG.ADD8` (R160). -/
def execEngAdd8 (y x : Byte) (s : State) : Host.Outcome State Fault Refusal :=
  .next (engAdd8Cmd y x s)

/-- `ENG.TLUTD x` (R150, R160). -/
def engTlutdCmd (c : WfConfig) (x : Byte) (s : State) : State := okay (zext32 (tlutD c.val x)) s

/-- The meaning of `ENG.TLUTD` (R160). -/
def execEngTlutd (x : Byte) (s : State) : Host.Outcome State Fault Refusal :=
  .next (engTlutdCmd Config.given x s)

/-- `ENG.TNIBB x` (R151, R160). -/
def engTnibbCmd (c : WfConfig) (x : Byte) (s : State) : State := okay (zext32 (tnibB c.val x)) s

/-- The meaning of `ENG.TNIBB` (R160). -/
def execEngTnibb (x : Byte) (s : State) : Host.Outcome State Fault Refusal :=
  .next (engTnibbCmd Config.given x s)

/-- `ENG.TCODEA y, x`: `y` any byte as a mode code, `x` a temperature (R152, R160). -/
def engTcodeaCmd (c : WfConfig) (y x : Byte) (s : State) : State := okay (zext32 (tcodeA c.val y x)) s

/-- The meaning of `ENG.TCODEA` (R160). -/
def execEngTcodea (y x : Byte) (s : State) : Host.Outcome State Fault Refusal :=
  .next (engTcodeaCmd Config.given y x s)

/-- `ENG.TFLDB x` (R153, R160). -/
def engTfldbCmd (c : WfConfig) (x : Byte) (s : State) : State := okay (zext32 (tfieldB c.val x)) s

/-- The meaning of `ENG.TFLDB` (R160). -/
def execEngTfldb (x : Byte) (s : State) : Host.Outcome State Fault Refusal :=
  .next (engTfldbCmd Config.given x s)

end Sys2Proof.Machine
end

