-- ==== Sys2Proof/Machine/StateCommands.lean ====
section
/-! DEFINITION. The state and registry commands (spec `40_state_commands.md`): `NOP`, `INIT`, `SET`, `GET`,
`CAPQ`, `INFO`. Each is a function of the state, and of the configuration where it reads one (`…Cmd`); its
meaning (`exec…`) is that function at the machine's own configuration. -/

namespace Sys2Proof.Machine

/-! ## NOP -/

/-- `NOP` (R110). -/
def nopCmd (s : State) : State := okay 0 s

/-- The meaning of `NOP` (R110). -/
def execNop (s : State) : Host.Outcome State Fault Refusal := .next (nopCmd s)

/-! ## INIT -/

/-- The instance `INIT v` constructs: every axis at its sentinel, the temperature at its default (R111). -/
def freshInstance (c : Config) (v : Vendor) : Appliance where
  vendor := v
  ax :=
    { power := c.sent v .power
      mode := c.sent v .mode
      temp := c.tempDefault v
      fanV := c.sent v .fanV
      fanH := c.sent v .fanH
      fanSpeed := c.sent v .fanSpeed
      highPower := c.sent v .highPower
      longFan := c.sent v .longFan
      roomClean := c.sent v .roomClean
      area := c.sent v .area }

/-- `INIT v'` (R111). -/
def initCmd (c : WfConfig) (v : Byte) (s : State) : State :=
  match vendorOf v with
  | none => raise .model s
  | some w => okay 0 (construct (freshInstance c.val w) s)

/-- The meaning of `INIT` (R111). -/
def execInit (v : Byte) (s : State) : Host.Outcome State Fault Refusal := .next (initCmd Config.given v s)

/-! ## SET -/

/-- The temperature clamp (R117). -/
def clampTemp (c : Config) (v : Vendor) (x : Byte) : Byte :=
  if x.toNat < (c.minTemp v).toNat then c.minTemp v
  else if x.toNat > (c.maxTemp v).toNat then c.maxTemp v
  else x

/-- The value a non-zero `SET` writes into axis `a`, or none when it is refused (R115, R117). -/
def settledValue (c : Config) (v : Vendor) (a : Axis) (x : Byte) : Option Byte :=
  if a = .temp then some (clampTemp c v x)
  else if c.dom v a x then some x
  else none

/-- `SET a, x` (R113 to R117). -/
def setCmd (c : WfConfig) (a : BitVec 4) (x : Byte) (s : State) : State :=
  withAxis a s fun ax =>
    withInstance s fun p =>
      if x = 0 then okay (zext32 (p.ax.get ax)) s
      else
        match settledValue c.val p.vendor ax x with
        | none => raise .type s
        | some w => emitSave (okay (zext32 w) (writeAxis p ax w s))

/-- The meaning of `SET` (R113). -/
def execSet (a : BitVec 4) (x : Byte) (s : State) : Host.Outcome State Fault Refusal :=
  .next (setCmd Config.given a x s)

/-! ## GET -/

/-- `GET a` (R120). -/
def getCmd (a : BitVec 4) (s : State) : State :=
  withAxis a s fun ax => withInstance s fun p => okay (zext32 (p.ax.get ax)) s

/-- The meaning of `GET` (R120). -/
def execGet (a : BitVec 4) (s : State) : Host.Outcome State Fault Refusal := .next (getCmd a s)

/-! ## CAPQ -/

/-- The answer of the capability registry (R122). -/
def capable (c : Config) (v : Vendor) (a : Axis) (code : Byte) : Bool :=
  if a = .temp then
    decide ((c.minTemp v).toNat ≤ code.toNat) && decide (code.toNat ≤ (c.maxTemp v).toNat)
  else c.dom v a code && code != c.sent v a

/-- `CAPQ a, c` (R122). -/
def capqCmd (c : WfConfig) (a : BitVec 4) (code : Byte) (s : State) : State :=
  withAxis a s fun ax => withInstance s fun p => okay (bitData (capable c.val p.vendor ax code)) s

/-- The meaning of `CAPQ` (R122). -/
def execCapq (a : BitVec 4) (code : Byte) (s : State) : Host.Outcome State Fault Refusal :=
  .next (capqCmd Config.given a code s)

/-! ## INFO -/

/-- `INFO s` (R125). -/
def infoCmd (c : WfConfig) (n : BitVec 4) (s : State) : State :=
  withSelector n s fun sel =>
    match sel with
    | .status => okay (zext32 (statusBits (statusOf s.block))) s
    | .vendor => withInstance s fun p => okay (zext32 (vendorCode p.vendor)) s
    | .minTemp => withInstance s fun p => okay (zext32 (c.val.minTemp p.vendor)) s
    | .maxTemp => withInstance s fun p => okay (zext32 (c.val.maxTemp p.vendor)) s
    | .tempStep => withInstance s fun p => okay (zext32 (Config.tempStep p.vendor)) s
    | .nfr => withInstance s fun _ => withFrames s fun fs => okay (countData fs.length) s

/-- The meaning of `INFO` (R125). -/
def execInfo (n : BitVec 4) (s : State) : Host.Outcome State Fault Refusal :=
  .next (infoCmd Config.given n s)

end Sys2Proof.Machine
end

