-- ==== Sys2Proof/Machine/Assembler.lean ====
section
/-! DEFINITION. The waveform assembler (spec `47_waveform_assembler.md`): frames and a vendor's timing
profile to the list of mark and space durations. -/

namespace Sys2Proof.Machine

/-- One bit: the mark, then the space that tells a one from a zero (R273). -/
def expandBit (c : Config) (v : Vendor) (b : Bit) : Wave :=
  [c.mark v, if b then c.oneSpace v else c.zeroSpace v]

/-- One frame, bit by bit in index order (R273). -/
def expandFrame (c : Config) (v : Vendor) (f : Frame) : Wave := f.flatMap (expandBit c v)

/-- One segment: a literal copied as it stands, or the expansion of a frame (R274). A frame that is not there,
which `WF(CFG)` rules out, expands to nothing (DESIGN CHOICE, log entry 8). -/
def segWave (c : Config) (v : Vendor) (frames : List Frame) : Seg → Wave
  | .lit ds => ds
  | .data f => expandFrame c v (frames.getD f [])

/-- `assemble(CFG, v, frames)`: the walk over `SEGS(v)` (R274, R280). -/
def assemble (c : Config) (v : Vendor) (frames : List Frame) : Wave :=
  (c.segs v).flatMap (segWave c v frames)

end Sys2Proof.Machine
end

