-- ==== Sys2Proof/Machine/WaveCommands.lean ====
section
/-! DEFINITION. The waveform commands (spec `47_waveform_assembler.md`): `ASM`, `WLEN`, `RDPULSE`. -/

namespace Sys2Proof.Machine

/-- `ASM` (R281): the present state is encoded again and assembled. -/
def asmCmd (c : WfConfig) (s : State) : State :=
  withInstance s fun p =>
    match encodeFrames c.val p.vendor p.ax with
    | none => raise .fatal s
    | some fs =>
      okay (countData (assemble c.val p.vendor fs).length) (latchWave fs (assemble c.val p.vendor fs) s)

/-- The meaning of `ASM` (R281). -/
def execAsm (s : State) : Host.Outcome State Fault Refusal := .next (asmCmd Config.given s)

/-- `WLEN` (R282). -/
def wlenCmd (s : State) : State :=
  withInstance s fun _ => withWave s fun w => okay (countData w.length) s

/-- The meaning of `WLEN` (R282). -/
def execWlen (s : State) : Host.Outcome State Fault Refusal := .next (wlenCmd s)

/-- `RDPULSE i` (R283). -/
def rdpulseCmd (i : BitVec 16) (s : State) : State :=
  withInstance s fun _ => withWave s fun w =>
    match readPulse w i.toNat with
    | none => raise .range s
    | some d => okay d s

/-- The meaning of `RDPULSE` (R283). -/
def execRdpulse (i : BitVec 16) (s : State) : Host.Outcome State Fault Refusal := .next (rdpulseCmd i s)

end Sys2Proof.Machine
end

