-- ==== Sys2Proof/Machine/Dispatch.lean ====
section
/-! DEFINITION. The meaning of every command, one arm per constructor of `Instr` (spec R87, R89). -/

namespace Sys2Proof.Machine

def exec (i : Instr) (s : State) : Host.Outcome State Fault Refusal :=
  match i with
  | .nop => Sys2Proof.Machine.execNop s
  | .init v => Sys2Proof.Machine.execInit v s
  | .set a x => Sys2Proof.Machine.execSet a x s
  | .get a => Sys2Proof.Machine.execGet a s
  | .capq a c => Sys2Proof.Machine.execCapq a c s
  | .info n => Sys2Proof.Machine.execInfo n s
  | .enc => Sys2Proof.Machine.execEnc s
  | .asm => Sys2Proof.Machine.execAsm s
  | .flen f => Sys2Proof.Machine.execFlen f s
  | .rdbit f k => Sys2Proof.Machine.execRdbit f k s
  | .wlen => Sys2Proof.Machine.execWlen s
  | .rdpulse k => Sys2Proof.Machine.execRdpulse k s
  | .engRev8 x => Sys2Proof.Machine.execEngRev8 x s
  | .engCpl8 x => Sys2Proof.Machine.execEngCpl8 x s
  | .engCpl4 x => Sys2Proof.Machine.execEngCpl4 x s
  | .engNibp x => Sys2Proof.Machine.execEngNibp x s
  | .engAdd8 y x => Sys2Proof.Machine.execEngAdd8 y x s
  | .engTlutd x => Sys2Proof.Machine.execEngTlutd x s
  | .engTnibb x => Sys2Proof.Machine.execEngTnibb x s
  | .engTcodea y x => Sys2Proof.Machine.execEngTcodea y x s
  | .engTfldb x => Sys2Proof.Machine.execEngTfldb x s

end Sys2Proof.Machine
end

