-- ==== Sys2Proof/Machine/Step.lean ====
section
/-! DEFINITION. One step of the machine: the next input of the port, taken and answered (spec R63). -/

namespace Sys2Proof.Machine

/-- One step: with nothing pending the block waits and nothing changes (R320, R341); otherwise the next
input takes its whole effect (R6, R63). -/
def step (s : State) : Host.Outcome State Fault Refusal :=
  match fetch s with
  | .idle => .next s
  | .reset s' => .next (takeReset s')
  | .illegal s' => .next (takeIllegal s')
  | .command i s' => exec i s'

/-- `s` with one command word placed where `step` looks next (DESIGN CHOICE, log entry 2). -/
def State.withFetchWord (s : State) (nbits w : Nat) : State :=
  placeCommand s (BitVec.ofNat 32 (w % 2 ^ nbits))

end Sys2Proof.Machine
end

