-- ==== Sys2Proof/Machine/Commands.lean ====
section
/-! DEFINITION. Every command as a function of the configuration, so that a claim can quantify over every
well-formed `CFG` or name one (spec R9). `exec` and `step` are these functions at the machine's own configuration. -/

namespace Sys2Proof.Machine

/-- The state after command `i`, under the configuration `c`, which is well-formed: under any other a command has
no meaning (R12). -/
def runCmd (c : WfConfig) (i : Instr) (s : State) : State :=
  match i with
  | .nop => nopCmd s
  | .init v => initCmd c v s
  | .set a x => setCmd c a x s
  | .get a => getCmd a s
  | .capq a x => capqCmd c a x s
  | .info n => infoCmd c n s
  | .enc => encCmd c s
  | .asm => asmCmd c s
  | .flen f => flenCmd f s
  | .rdbit f k => rdbitCmd f k s
  | .wlen => wlenCmd s
  | .rdpulse k => rdpulseCmd k s
  | .engRev8 x => engRev8Cmd x s
  | .engCpl8 x => engCpl8Cmd x s
  | .engCpl4 x => engCpl4Cmd x s
  | .engNibp x => engNibpCmd x s
  | .engAdd8 y x => engAdd8Cmd y x s
  | .engTlutd x => engTlutdCmd c x s
  | .engTnibb x => engTnibbCmd c x s
  | .engTcodea y x => engTcodeaCmd c y x s
  | .engTfldb x => engTfldbCmd c x s

/-- One step under the well-formed configuration `c`, as `step` is at the machine's own (R9, R12): a claim or a test
that names a configuration runs this. -/
def stepWith (c : WfConfig) (s : State) : State :=
  match fetch s with
  | .idle => s
  | .reset s' => takeReset s'
  | .illegal s' => takeIllegal s'
  | .command i s' => runCmd c i s'

end Sys2Proof.Machine
end

