-- ==== Sys2Proof/Machine/Text.lean ====
section
/-! DEFINITION. The textual form of a command (spec R100 to R102): a mnemonic, then its operands separated
by commas, numbers decimal or hexadecimal with `0x`, and the symbolic operands of R101. No mnemonic
expands to several words. The text works on lists of characters. What the rules leave open of spaces, of
letter case and of numbers that do not fit their field is a DESIGN CHOICE (log entry 7). -/

namespace Sys2Proof.Machine

/-! ## Writing -/

/-- The mnemonic of a command (R87, R89, R100). -/
def mnemonic : Instr → String
  | .nop => "NOP"
  | .init _ => "INIT"
  | .set _ _ => "SET"
  | .get _ => "GET"
  | .capq _ _ => "CAPQ"
  | .info _ => "INFO"
  | .enc => "ENC"
  | .asm => "ASM"
  | .flen _ => "FLEN"
  | .rdbit _ _ => "RDBIT"
  | .wlen => "WLEN"
  | .rdpulse _ => "RDPULSE"
  | .engRev8 _ => "ENG.REV8"
  | .engCpl8 _ => "ENG.CPL8"
  | .engCpl4 _ => "ENG.CPL4"
  | .engNibp _ => "ENG.NIBP"
  | .engAdd8 _ _ => "ENG.ADD8"
  | .engTlutd _ => "ENG.TLUTD"
  | .engTnibb _ => "ENG.TNIBB"
  | .engTcodea _ _ => "ENG.TCODEA"
  | .engTfldb _ => "ENG.TFLDB"

/-- The operands of a command in the order of R100: the `a` field, then `hi`, then `lo` or `imm16`. -/
def operands : Instr → List Nat
  | .nop => []
  | .init v => [v.toNat]
  | .set a x => [a.toNat, x.toNat]
  | .get a => [a.toNat]
  | .capq a c => [a.toNat, c.toNat]
  | .info s => [s.toNat]
  | .enc => []
  | .asm => []
  | .flen f => [f.toNat]
  | .rdbit f i => [f.toNat, i.toNat]
  | .wlen => []
  | .rdpulse i => [i.toNat]
  | .engRev8 x => [x.toNat]
  | .engCpl8 x => [x.toNat]
  | .engCpl4 x => [x.toNat]
  | .engNibp x => [x.toNat]
  | .engAdd8 y x => [y.toNat, x.toNat]
  | .engTlutd x => [x.toNat]
  | .engTnibb x => [x.toNat]
  | .engTcodea y x => [y.toNat, x.toNat]
  | .engTfldb x => [x.toNat]

/-- The text of a command, its numbers in decimal (R100). -/
def render (i : Instr) : String :=
  match operands i with
  | [] => mnemonic i
  | ns => mnemonic i ++ " " ++ String.intercalate ", " (ns.map toString)

/-! ## Reading -/

/-- An operand as written: a number or a symbol (R100, R101). -/
inductive Token where
  | num (n : Nat)
  | sym (name : List Char)
deriving DecidableEq, Repr

/-- The value of a digit in a base up to 16. A hexadecimal digit above 9 may be a small letter or a capital: R100 does
not say which (DESIGN CHOICE, log entry 7). -/
def digitOf (base : Nat) (ch : Char) : Option Nat :=
  let d :=
    if '0' ≤ ch ∧ ch ≤ '9' then ch.toNat - '0'.toNat
    else if 'a' ≤ ch ∧ ch ≤ 'f' then ch.toNat - 'a'.toNat + 10
    else if 'A' ≤ ch ∧ ch ≤ 'F' then ch.toNat - 'A'.toNat + 10
    else 16
  if d < base then some d else none

/-- The number a list of digits writes, continuing from `acc`. -/
def readDigits (base acc : Nat) : List Char → Option Nat
  | [] => some acc
  | ch :: rest =>
    match digitOf base ch with
    | none => none
    | some d => readDigits base (base * acc + d) rest

/-- One operand: decimal, hexadecimal with `0x`, or a symbol (R100, R101). The `x` of `0x` is small, as R100 writes it;
leading zeros are allowed, and `0x` alone is no number (DESIGN CHOICE, log entry 7). -/
def readToken : List Char → Option Token
  | [] => none
  | '0' :: 'x' :: d :: rest => (readDigits 16 0 (d :: rest)).map .num
  | cs =>
    match readDigits 10 0 cs with
    | some n => some (.num n)
    | none => some (.sym cs)

/-- The pieces of a text between the characters `sep`. -/
def splitOn (sep : Char) : List Char → List (List Char)
  | [] => [[]]
  | ch :: rest =>
    if ch = sep then [] :: splitOn sep rest
    else
      match splitOn sep rest with
      | [] => [[ch]]
      | piece :: more => (ch :: piece) :: more

/-- A text without the spaces at its start and at its end. -/
def trimSpaces (cs : List Char) : List Char :=
  ((cs.dropWhile fun ch => ch == ' ').reverse.dropWhile fun ch => ch == ' ').reverse

/-- The mnemonic and the operands of a line; a line without operands is its mnemonic alone. Operands are separated by
commas (R100). R100 says nothing of spaces: those before and after the mnemonic and around an operand are ignored,
and one inside an operand, or in place of a comma, stays there, so that the operand is neither a number nor
a symbol (DESIGN CHOICE, log entry 7). -/
def readLine (line : String) : Option (List Char × List Token) :=
  let cs := trimSpaces line.toList
  let name := cs.takeWhile fun ch => ch != ' '
  let rest := cs.drop name.length
  if rest.isEmpty then some (name, [])
  else ((splitOn ',' rest).mapM fun piece => readToken (trimSpaces piece)).map fun ts => (name, ts)

/-- The symbols of the axes (R101). -/
def axisSymbols : List (String × Nat) :=
  [("POWER", 0), ("MODE", 1), ("TEMP", 2), ("FAN_V", 3), ("FAN_H", 4), ("FAN_SPEED", 5),
    ("HIGH_POWER", 6), ("LONG_FAN", 7), ("ROOM_CLEAN", 8), ("AREA", 9)]

/-- The symbols of the vendors (R101). -/
def vendorSymbols : List (String × Nat) := [("A", 0), ("B", 1), ("C", 2), ("D", 3)]

/-- The symbols of the `INFO` selectors (R101). -/
def selectorSymbols : List (String × Nat) :=
  [("VENDOR", 0), ("MIN_TEMP", 1), ("MAX_TEMP", 2), ("TEMP_STEP", 3), ("STATUS", 4), ("NFR", 5)]

/-- The number a symbol stands for in a table of symbols. -/
def lookSymbol (symbols : List (String × Nat)) (name : List Char) : Option Nat :=
  (symbols.find? fun e => e.1.toList == name).map Prod.snd

/-- An operand as a field of `n` bits, its symbols taken from a table; a number that does not fit its
field is no operand (R81). -/
def fieldOf (n : Nat) (symbols : List (String × Nat)) (t : Token) : Option (BitVec n) :=
  match t with
  | .num k => if k < 2 ^ n then some (BitVec.ofNat n k) else none
  | .sym name => (lookSymbol symbols name).map (BitVec.ofNat n)

/-- A command with one operand. -/
def one {n : Nat} (symbols : List (String × Nat)) (mk : BitVec n → Instr) (t : Token) : Option Instr :=
  (fieldOf n symbols t).map mk

/-- A command with two operands. -/
def two {m n : Nat} (symbols : List (String × Nat)) (mk : BitVec m → BitVec n → Instr) (t u : Token) :
    Option Instr :=
  (fieldOf m symbols t).bind fun a => (fieldOf n [] u).map (mk a)

/-- The command a mnemonic and its operands write (R100, R101). -/
def readCommand (name : String) (ts : List Token) : Option Instr :=
  match name, ts with
  | "NOP", [] => some .nop
  | "INIT", [t] => one vendorSymbols .init t
  | "SET", [t, u] => two axisSymbols .set t u
  | "GET", [t] => one axisSymbols .get t
  | "CAPQ", [t, u] => two axisSymbols .capq t u
  | "INFO", [t] => one selectorSymbols .info t
  | "ENC", [] => some .enc
  | "ASM", [] => some .asm
  | "FLEN", [t] => one [] .flen t
  | "RDBIT", [t, u] => two [] .rdbit t u
  | "WLEN", [] => some .wlen
  | "RDPULSE", [t] => one [] .rdpulse t
  | "ENG.REV8", [t] => one [] .engRev8 t
  | "ENG.CPL8", [t] => one [] .engCpl8 t
  | "ENG.CPL4", [t] => one [] .engCpl4 t
  | "ENG.NIBP", [t] => one [] .engNibp t
  | "ENG.ADD8", [t, u] => two [] .engAdd8 t u
  | "ENG.TLUTD", [t] => one [] .engTlutd t
  | "ENG.TNIBB", [t] => one [] .engTnibb t
  | "ENG.TCODEA", [t, u] => two [] .engTcodea t u
  | "ENG.TFLDB", [t] => one [] .engTfldb t
  | _, _ => none

/-- The command a line of text writes, if it writes one (R100). -/
def parse (line : String) : Option Instr :=
  (readLine line).bind fun r => readCommand (String.ofList r.1) r.2

/-- The word a line of text assembles to: exactly one, there being no pseudo-commands (R102). -/
def assembleLine (line : String) : Option Word := (parse line).map encode

end Sys2Proof.Machine
end

