-- ==== Sys2Proof/Safety.lean ====
section
/-! DEFINITION. The terms in which claims about runs are made: the invariant of the block (spec R26, R33,
R34), runs without an aborted encoding (R32), and the shape of the state after a command. -/

namespace Sys2Proof.Machine

/-- The invariant of a block: the instance is valid (R26); the frame buffer, when it holds frames, holds
exactly the encoding of the present state (R33); the pulse buffer, when it holds a wave, holds exactly
the wave of the frames held (R34). -/
structure Block.Inv (c : Config) (b : Block) : Prop where
  valid : ∀ p, b.app = some p → c.ValidAxes p.vendor p.ax
  frames : ∀ fs, b.frames = some fs → ∃ p, b.app = some p ∧ encodeFrames c p.vendor p.ax = some fs
  wave : ∀ w, b.wave = some w →
    ∃ p fs, b.app = some p ∧ b.frames = some fs ∧ w = assemble c p.vendor fs

/-- No encoding has aborted since reset: the premise or conclusion R32 asks of a claim about a run. -/
def State.Safe (s : State) : Prop := s.block.fatal = false

/-- The state after a command has responded: the block `b`, the response `(code, data)`, the strobe
`save_req`, and the inputs still pending, which no command changes. -/
def answered (s : State) (code : RespCode) (data : Word) (save : Bool) (b : Block) : State where
  block := b
  port := { pending := s.port.pending, resp := some { code := code, data := data }, saveReq := save }

/-- The state after an error that changes nothing in the block (R312): data word 0, no event. -/
def failed (s : State) (e : Err) : State := answered s (.err e) 0 false s.block

/-- The clauses of R93 read off the fields of a word: the word is no command. -/
def illegalFields (op a z hi lo : Nat) : Prop :=
  13 ≤ op ∨ z ≠ 0 ∨
  (op ∈ [0, 6, 7, 10] ∧ (a ≠ 0 ∨ hi ≠ 0 ∨ lo ≠ 0)) ∨
  (op = 1 ∧ (a ≠ 0 ∨ hi ≠ 0)) ∨
  (op = 11 ∧ a ≠ 0) ∨
  (op ∈ [2, 4] ∧ (hi ≠ 0 ∨ 10 ≤ a)) ∨
  (op = 3 ∧ (hi ≠ 0 ∨ lo ≠ 0 ∨ 10 ≤ a)) ∨
  (op = 5 ∧ (hi ≠ 0 ∨ lo ≠ 0 ∨ 6 ≤ a)) ∨
  (op = 8 ∧ (hi ≠ 0 ∨ lo ≠ 0 ∨ 2 ≤ a)) ∨
  (op = 9 ∧ 2 ≤ a) ∨
  (op = 12 ∧ (9 ≤ a ∨ (a ∈ [0, 1, 5, 6, 8] ∧ hi ≠ 0) ∨ (a ∈ [2, 3] ∧ (hi ≠ 0 ∨ 16 ≤ lo))))

/-- The word `w` is illegal: R93 on its fields, each read as a number (R80). -/
def illegalWord (w : Word) : Prop :=
  illegalFields (w.toNat / 2 ^ 28) (w.toNat / 2 ^ 24 % 16) (w.toNat / 2 ^ 16 % 256)
    (w.toNat / 2 ^ 8 % 256) (w.toNat % 256)

end Sys2Proof.Machine
end

