-- ==== Sys2Proof/Certificates/Slice0/Obligations.lean ====
section
/-! DEFINITION. The statements for the provers. `answered`, `failed`, `Block.Inv` and `illegalWord` are those of
`Sys2Proof/Safety.lean`. A statement over `exec` or `step` is about the machine's own configuration,
`Config.cfg`, of which only `WF(CFG)` is known; a statement over `runCmd c` quantifies over well-formed
configurations (R12), one over an encoder or the assembler over configurations, with `WF(CFG)` as a hypothesis
where it is needed. -/

open Sys2Proof Sys2Proof.Machine

/-! ## Decode and encode -/

/-- R87, R89: decoding the word of a well-formed command gives the command back, with every operand at
every value. -/
def Obligations.DecodeOfEncode : Prop :=
  ∀ i : Instr, i.wellFormed = true → decode (encode i) = .ok i

/-- R82: every word is exactly one legal command with its operands, or illegal, and two different words are
never the same command. -/
def Obligations.EveryWordOneCommandOrIllegal : Prop :=
  (∀ w : Word,
    (∃ i, i.wellFormed = true ∧ decode w = .ok i ∧ encode i = w) ∨ (∃ e, decode w = .error e)) ∧
  (∀ (w w' : Word) (i : Instr), decode w = .ok i → decode w' = .ok i → w = w')

/-- R93: a word is rejected in exactly the cases (a) to (g), and the block then responds `ERR_ILLEGAL` with no
state change and no event. -/
def Obligations.IllegalWordsExactly : Prop :=
  (∀ w : Word, (∃ e, decode w = .error e) ↔ illegalWord w) ∧
  (∀ (s : State) (w : Word) (rest : List Input), s.port.pending = .command w :: rest → illegalWord w →
    step s = .next (failed { s with port := { s.port with pending := rest } } .illegal))

/-- R87, R89: a few words written out from the table decode to the commands they stand for. -/
def Obligations.TableWordsDecode : Prop :=
  decode 0x00000000 = .ok .nop ∧ decode 0x10000003 = .ok (.init 3) ∧
  decode 0x22000015 = .ok (.set 2 21) ∧ decode 0x54000000 = .ok (.info 4) ∧
  decode 0x9100009F = .ok (.rdbit 1 159) ∧ decode 0xB000012A = .ok (.rdpulse 298) ∧
  decode 0xC700FF01 = .ok (.engTcodea 0xFF 1)

/-- R100: the mnemonic and the operands of a command, in the order `a`, `hi`, `lo` or `imm16`, write that
command. -/
def Obligations.TextWritesItsCommand : Prop :=
  ∀ i : Instr, readCommand (mnemonic i) ((operands i).map .num) = some i

/-! ## Steps and reset -/

/-- R63, R95: a step on a word that decodes runs exactly the decoded command, with the word taken from the
port. -/
def Obligations.StepRunsTheDecodedCommand : Prop :=
  ∀ (s : State) (w : Word) (rest : List Input) (i : Instr),
    s.port.pending = .command w :: rest → decode w = .ok i →
    step s = exec i { s with port := { s.port with pending := rest } }

/-- R9: the meaning of every command is the command function at the machine's configuration, so no command
faults or is refused, and what is proved of `runCmd c` for every well-formed `c` holds of `exec`. -/
def Obligations.EveryCommandAnswers : Prop :=
  ∀ (i : Instr) (s : State), exec i s = .next (runCmd Config.given i s)

/-- R41, R340: the state after reset. -/
def Obligations.ResetLeavesNoInstance : Prop :=
  statusBits (statusOf State.reset.block) = 0 ∧ State.reset.block.trace = [] ∧
  State.reset.block.app = none ∧ State.reset.block.frames = none ∧ State.reset.block.wave = none

/-- R340, R343: the reset input brings the block, from every state, to the reset column of R41; that the
response and the strobe are then absent, and that the inputs still pending stay, is the model's
choice (log entry 4). -/
def Obligations.ResetInputResetsTheBlock : Prop :=
  ∀ (s : State) (rest : List Input), s.port.pending = .reset :: rest →
    step s = .next
      { block := { app := none, frames := none, wave := none, fatal := false, trace := [] }
        port := { pending := rest, resp := none, saveReq := false } }

/-- R85: the numbers of the response codes; codes 8 to 15 are never returned. -/
def Obligations.ResponseCodeNumbers : Prop :=
  respCodeNum .okay = 0 ∧ respCodeNum (.err .type) = 1 ∧ respCodeNum (.err .model) = 2 ∧
  respCodeNum (.err .fatal) = 3 ∧ respCodeNum (.err .noinst) = 4 ∧ respCodeNum (.err .illegal) = 5 ∧
  respCodeNum (.err .range) = 6 ∧ respCodeNum (.err .stale) = 7 ∧
  ∀ k : RespCode, (respCodeNum k).toNat < 8

/-! ## State and registry commands -/

/-- R110: `NOP`. -/
def Obligations.NopOnlyAnswers : Prop :=
  encode .nop = 0x00000000 ∧ ∀ s : State, exec .nop s = .next (answered s .okay 0 false s.block)

/-- R111: `INIT`. -/
def Obligations.InitConstructsTheInstance : Prop :=
  ∀ (v : Byte) (s : State),
    (encode (.init v)).toNat = 0x10000000 + v.toNat ∧
    (3 < v.toNat → exec (.init v) s = .next (failed s .model)) ∧
    (∀ w : Vendor, vendorCode w = v →
      exec (.init v) s = .next (answered s .okay 0 false
        { s.block with
          app := some
            { vendor := w
              ax :=
                { power := Config.cfg.sent w .power, mode := Config.cfg.sent w .mode
                  temp := Config.cfg.tempDefault w, fanV := Config.cfg.sent w .fanV
                  fanH := Config.cfg.sent w .fanH, fanSpeed := Config.cfg.sent w .fanSpeed
                  highPower := Config.cfg.sent w .highPower, longFan := Config.cfg.sent w .longFan
                  roomClean := Config.cfg.sent w .roomClean, area := Config.cfg.sent w .area } }
          frames := none
          wave := none }))

/-- R113, with R114, R115 and R117: `SET` on every axis and every value: no instance, the zero-value no-op, the
refusal outside the domain, the clamp, the write. -/
def Obligations.SetWritesOrRefuses : Prop :=
  ∀ (ax : Axis) (x : Byte) (s : State),
    (encode (.set (axisNum ax) x)).toNat = 0x20000000 + 0x1000000 * (axisNum ax).toNat + x.toNat ∧
    (s.block.app = none → exec (.set (axisNum ax) x) s = .next (failed s .noinst)) ∧
    (∀ p, s.block.app = some p →
      exec (.set (axisNum ax) x) s = .next
        (if x = 0 then answered s .okay ((p.ax.get ax).setWidth 32) false s.block
        else if ax ≠ .temp ∧ Config.cfg.dom p.vendor ax x = false then failed s .type
        else
          let lo := Config.cfg.minTemp p.vendor
          let hi := Config.cfg.maxTemp p.vendor
          let w := if ax = .temp then (if x.toNat < lo.toNat then lo else if hi.toNat < x.toNat then hi else x)
            else x
          answered s .okay (w.setWidth 32) true
            { s.block with
              app := some { p with ax := setAxis p.ax ax w }
              frames := none
              wave := none
              trace := s.block.trace ++ [.save] }))

/-- R117: a non-zero temperature is clamped to the bounds, never refused, and answered with the value held. -/
def Obligations.TemperatureClamps : Prop :=
  ∀ (c : WfConfig) (x : Byte) (s : State) (p : Appliance),
    s.block.app = some p → x ≠ 0 →
    ∃ q w, (runCmd c (.set 2 x) s).block.app = some q ∧ q.ax.temp = w ∧
      w.toNat = max (c.val.minTemp p.vendor).toNat (min (c.val.maxTemp p.vendor).toNat x.toNat) ∧
      (runCmd c (.set 2 x) s).port.resp = some { code := .okay, data := w.setWidth 32 }

/-- R27, R116: an accepted non-zero `SET` writes one axis register, clears both valid bits, emits one `Save`, and
leaves every other register, `VENDOR` and `FATAL` as they were. -/
def Obligations.AcceptedSetFrame : Prop :=
  ∀ (c : WfConfig) (ax : Axis) (x w : Byte) (s : State) (p : Appliance),
    s.block.app = some p → x ≠ 0 → settledValue c.val p.vendor ax x = some w →
    ∃ q, (runCmd c (.set (axisNum ax) x) s).block.app = some q ∧ q.vendor = p.vendor ∧
      q.ax.get ax = w ∧ (∀ a, a ≠ ax → q.ax.get a = p.ax.get a) ∧
      (runCmd c (.set (axisNum ax) x) s).block.frames = none ∧
      (runCmd c (.set (axisNum ax) x) s).block.wave = none ∧
      (runCmd c (.set (axisNum ax) x) s).block.fatal = s.block.fatal ∧
      (runCmd c (.set (axisNum ax) x) s).block.trace = s.block.trace ++ [.save] ∧
      (runCmd c (.set (axisNum ax) x) s).port.saveReq = true

/-- R120: `GET`. -/
def Obligations.GetReadsTheAxis : Prop :=
  ∀ (ax : Axis) (s : State),
    (encode (.get (axisNum ax))).toNat = 0x30000000 + 0x1000000 * (axisNum ax).toNat ∧
    (s.block.app = none → exec (.get (axisNum ax)) s = .next (failed s .noinst)) ∧
    (∀ p, s.block.app = some p →
      exec (.get (axisNum ax)) s = .next
        (answered s .okay ((p.ax.get ax).setWidth 32) false s.block))

/-- R22, R111, R113, R120: after an accepted `INIT` an axis that was never set reads as its sentinel, and the
temperature as its default, whatever commands ran in between. None of them is an accepted `INIT`, and a `SET` of
this axis among them writes nothing: its value is 0 or is refused. -/
def Obligations.UnsetAxisReadsAsSentinel : Prop :=
  ∀ (c : WfConfig) (v : Vendor) (ax : Axis) (s : State) (between : List Instr),
    (∀ i ∈ between,
      (∀ w, i = .init w → 3 < w.toNat) ∧
      (∀ x, i = .set (axisNum ax) x → x = 0 ∨ (ax ≠ .temp ∧ c.val.dom v ax x = false))) →
    (runCmd c (.get (axisNum ax))
      (between.foldl (fun t i => runCmd c i t) (runCmd c (.init (vendorCode v)) s))).port.resp =
      some { code := .okay
             data := if ax = .temp then (c.val.tempDefault v).setWidth 32 else (c.val.sent v ax).setWidth 32 }

/-- R122: `CAPQ`. -/
def Obligations.CapqAnswersMembership : Prop :=
  ∀ (ax : Axis) (code : Byte) (s : State),
    (encode (.capq (axisNum ax) code)).toNat =
      0x40000000 + 0x1000000 * (axisNum ax).toNat + code.toNat ∧
    (s.block.app = none → exec (.capq (axisNum ax) code) s = .next (failed s .noinst)) ∧
    (∀ p, s.block.app = some p →
      exec (.capq (axisNum ax) code) s = .next (answered s .okay
        (if ax = .temp then
          (if (Config.cfg.minTemp p.vendor).toNat ≤ code.toNat ∧
              code.toNat ≤ (Config.cfg.maxTemp p.vendor).toNat then 1 else 0)
        else if Config.cfg.dom p.vendor ax code = true ∧ code ≠ Config.cfg.sent p.vendor ax then 1 else 0)
        false s.block))

/-- R125: `INFO`, all six selectors. -/
def Obligations.InfoAnswersTheSelector : Prop :=
  ∀ (sel : Selector) (s : State),
    (encode (.info (selectorNum sel))).toNat = 0x50000000 + 0x1000000 * (selectorNum sel).toNat ∧
    exec (.info (selectorNum sel)) s = .next
      (match sel, s.block.app with
      | .status, _ => answered s .okay
          (BitVec.ofNat 32 ((if s.block.app.isSome then 1 else 0) + (if s.block.frames.isSome then 2 else 0) +
            (if s.block.wave.isSome then 4 else 0) + (if s.block.fatal then 8 else 0))) false s.block
      | _, none => failed s .noinst
      | .vendor, some p => answered s .okay ((vendorCode p.vendor).setWidth 32) false s.block
      | .minTemp, some p => answered s .okay ((Config.cfg.minTemp p.vendor).setWidth 32) false s.block
      | .maxTemp, some p => answered s .okay ((Config.cfg.maxTemp p.vendor).setWidth 32) false s.block
      | .tempStep, some _ => answered s .okay 1 false s.block
      | .nfr, some _ =>
        match s.block.frames with
        | none => failed s .stale
        | some fs => answered s .okay (BitVec.ofNat 32 fs.length) false s.block)

/-! ## Encode and waveform commands -/

/-- R253: `ENC`. -/
def Obligations.EncLatchesTheFrames : Prop :=
  encode .enc = 0x60000000 ∧
  ∀ s : State,
    (s.block.app = none → exec .enc s = .next (failed s .noinst)) ∧
    (∀ p, s.block.app = some p →
      exec .enc s = .next
        (match encodeFrames Config.cfg p.vendor p.ax with
        | none => answered s (.err .fatal) 0 false
            { s.block with fatal := true, frames := none, wave := none }
        | some fs => answered s .okay (BitVec.ofNat 32 fs.length) false
            { s.block with frames := some fs }))

/-- R281: `ASM`. -/
def Obligations.AsmLatchesTheWave : Prop :=
  encode .asm = 0x70000000 ∧
  ∀ s : State,
    (s.block.app = none → exec .asm s = .next (failed s .noinst)) ∧
    (∀ p, s.block.app = some p →
      exec .asm s = .next
        (match encodeFrames Config.cfg p.vendor p.ax with
        | none => answered s (.err .fatal) 0 false
            { s.block with fatal := true, frames := none, wave := none }
        | some fs => answered s .okay (BitVec.ofNat 32 (assemble Config.cfg p.vendor fs).length) false
            { s.block with frames := some fs, wave := some (assemble Config.cfg p.vendor fs) }))

/-- R346: with an instance of vendor A, B or D, `ENC` and `ASM` respond `OKAY`; with one of vendor C exactly when
neither sub-field sum exceeds 255. -/
def Obligations.EncodingRespondsOkay : Prop :=
  ∀ (s : State) (p : Appliance), s.block.app = some p →
    ∃ t u ct cu, exec .enc s = .next t ∧ exec .asm s = .next u ∧
      t.port.resp = some ct ∧ u.port.resp = some cu ∧
      (ct.code = .okay ↔ p.vendor ≠ .C ∨
        ((Config.cfg.cFan1 p.ax).toNat + (Config.cfg.cFan2 p.ax).toNat ≤ 255 ∧
          (Config.cfg.cExt1 p.ax).toNat + (Config.cfg.cExt2 p.ax).toNat ≤ 255)) ∧
      (cu.code = .okay ↔ ct.code = .okay)

/-- R254: an aborted encoding leaves no readable frame or pulse and the axis registers unchanged; it aborts again
while the state is unchanged; once an encoding is possible again the next `ENC` succeeds, with
`FATAL` still set. -/
def Obligations.AbortLeavesNothingReadable : Prop :=
  ∀ (c : WfConfig) (i : Instr) (s : State) (p : Appliance),
    (i = .enc ∨ i = .asm) → s.block.app = some p → encodeFrames c.val p.vendor p.ax = none →
    (runCmd c i s).port.resp = some { code := .err .fatal, data := 0 } ∧
    (runCmd c i s).block.app = some p ∧ (runCmd c i s).block.fatal = true ∧
    (∀ f k, (runCmd c (.rdbit f k) (runCmd c i s)).port.resp = some { code := .err .stale, data := 0 }) ∧
    (∀ k, (runCmd c (.rdpulse k) (runCmd c i s)).port.resp = some { code := .err .stale, data := 0 }) ∧
    (runCmd c i (runCmd c i s)).port.resp = some { code := .err .fatal, data := 0 } ∧
    (∀ ax x q fs, (runCmd c (.set (axisNum ax) x) (runCmd c i s)).block.app = some q →
      encodeFrames c.val q.vendor q.ax = some fs →
      (runCmd c .enc (runCmd c (.set (axisNum ax) x) (runCmd c i s))).port.resp =
        some { code := .okay, data := BitVec.ofNat 32 fs.length } ∧
      (runCmd c .enc (runCmd c (.set (axisNum ax) x) (runCmd c i s))).block.fatal = true)

/-- R255: `FLEN`. -/
def Obligations.FlenReadsTheLength : Prop :=
  ∀ (f : BitVec 1) (s : State),
    (encode (.flen f)).toNat = 0x80000000 + 0x1000000 * f.toNat ∧
    exec (.flen f) s = .next
      (match s.block.app, s.block.frames with
      | none, _ => failed s .noinst
      | some _, none => failed s .stale
      | some _, some fs =>
        if h : f.toNat < fs.length then answered s .okay (BitVec.ofNat 32 (fs[f.toNat]).length) false s.block
        else failed s .range)

/-- R256: `RDBIT`. -/
def Obligations.RdbitReadsTheBit : Prop :=
  ∀ (f : BitVec 1) (i : BitVec 16) (s : State),
    (encode (.rdbit f i)).toNat = 0x90000000 + 0x1000000 * f.toNat + i.toNat ∧
    exec (.rdbit f i) s = .next
      (match s.block.app, s.block.frames with
      | none, _ => failed s .noinst
      | some _, none => failed s .stale
      | some _, some fs =>
        if h : f.toNat < fs.length then
          if h' : i.toNat < (fs[f.toNat]).length then
            answered s .okay (if (fs[f.toNat])[i.toNat] then 1 else 0) false s.block
          else failed s .range
        else failed s .range)

/-- R282: `WLEN`. -/
def Obligations.WlenReadsTheLength : Prop :=
  encode .wlen = 0xA0000000 ∧
  ∀ s : State, exec .wlen s = .next
    (match s.block.app, s.block.wave with
    | none, _ => failed s .noinst
    | some _, none => failed s .stale
    | some _, some w => answered s .okay (BitVec.ofNat 32 w.length) false s.block)

/-- R283: `RDPULSE`. -/
def Obligations.RdpulseReadsTheDuration : Prop :=
  ∀ (i : BitVec 16) (s : State),
    (encode (.rdpulse i)).toNat = 0xB0000000 + i.toNat ∧
    exec (.rdpulse i) s = .next
      (match s.block.app, s.block.wave with
      | none, _ => failed s .noinst
      | some _, none => failed s .stale
      | some _, some w =>
        if h : i.toNat < w.length then answered s .okay w[i.toNat] false s.block else failed s .range)

/-- R257, R33: while a block meets the invariant and holds frames, `RDBIT` answers the bits of the encoding of the
present state, and `ERR_RANGE` outside it. -/
def Obligations.RdbitReadsThePresentEncoding : Prop :=
  ∀ (c : WfConfig) (s : State) (p : Appliance) (f : BitVec 1) (i : BitVec 16),
    s.block.Inv c.val → s.block.app = some p → s.block.frames ≠ none →
    ∃ fs, encodeFrames c.val p.vendor p.ax = some fs ∧
      (runCmd c (.rdbit f i) s).port.resp =
        some (match (fs[f.toNat]?).bind fun fr => fr[i.toNat]? with
          | some b => { code := .okay, data := if b then 1 else 0 }
          | none => { code := .err .range, data := 0 })

/-! ## ENG -/

/-- R160: the engines that read no table, on every operand and in every state. -/
def Obligations.EngByteEngines : Prop :=
  (∀ (x : Byte) (s : State), (encode (.engRev8 x)).toNat = 0xC0000000 + x.toNat ∧
    ∃ r : Byte, (∀ k, k < 8 → r.getLsbD k = x.getLsbD (7 - k)) ∧
      exec (.engRev8 x) s = .next (answered s .okay (r.setWidth 32) false s.block)) ∧
  (∀ (x : Byte) (s : State), (encode (.engCpl8 x)).toNat = 0xC1000000 + x.toNat ∧
    exec (.engCpl8 x) s = .next (answered s .okay (BitVec.ofNat 32 (255 - x.toNat)) false s.block)) ∧
  (∀ (x : Nib) (s : State), (encode (.engCpl4 x)).toNat = 0xC2000000 + x.toNat ∧
    exec (.engCpl4 x) s = .next (answered s .okay (BitVec.ofNat 32 (15 - x.toNat)) false s.block)) ∧
  (∀ (x : Nib) (s : State), (encode (.engNibp x)).toNat = 0xC3000000 + x.toNat ∧
    exec (.engNibp x) s = .next
      (answered s .okay (BitVec.ofNat 32 (16 * x.toNat + (15 - x.toNat))) false s.block)) ∧
  (∀ (y x : Byte) (s : State), (encode (.engAdd8 y x)).toNat = 0xC4000000 + 256 * y.toNat + x.toNat ∧
    exec (.engAdd8 y x) s = .next
      (answered s .okay (BitVec.ofNat 32 ((x.toNat + y.toNat) % 256)) false s.block))

/-- R160: the engines that read the tables of vendors D, B, A and B, whatever the instance. -/
def Obligations.EngTableEngines : Prop :=
  (∀ (x : Byte) (s : State), (encode (.engTlutd x)).toNat = 0xC5000000 + x.toNat ∧
    exec (.engTlutd x) s = .next (answered s .okay ((Config.cfg.tlutD x).setWidth 32) false s.block)) ∧
  (∀ (x : Byte) (s : State), (encode (.engTnibb x)).toNat = 0xC6000000 + x.toNat ∧
    exec (.engTnibb x) s = .next (answered s .okay ((Config.cfg.bTnib x).setWidth 32) false s.block)) ∧
  (∀ (y x : Byte) (s : State), (encode (.engTcodea y x)).toNat = 0xC7000000 + 256 * y.toNat + x.toNat ∧
    exec (.engTcodea y x) s = .next (answered s .okay
      (if Config.cfg.aThermo y then BitVec.ofNat 32 (2 * x.toNat % 256)
        else (Config.cfg.aFixt y).setWidth 32) false s.block)) ∧
  (∀ (x : Byte) (s : State), (encode (.engTfldb x)).toNat = 0xC8000000 + x.toNat ∧
    exec (.engTfldb x) s = .next (answered s .okay
      (BitVec.ofNat 32 (16 * (if x = Config.cfg.maxTemp .B then Config.cfg.bMaxm1.toNat
        else Config.cfg.bMaxm0.toNat) + (Config.cfg.bTnib x).toNat)) false s.block))

/-! ## The engines -/

/-- R141: the laws of `REV8`. -/
def Obligations.ReversalLaws : Prop :=
  (∀ x : Byte, rev8 (rev8 x) = x) ∧ (∀ x : Byte, rev8 (cpl8 x) = cpl8 (rev8 x)) ∧
  Function.Bijective rev8 ∧ ∃ x y : Byte, rev8 (add8 x y) ≠ add8 (rev8 x) (rev8 y)

/-- R142, R143, R144: the complements and the nibble pack. -/
def Obligations.ComplementLaws : Prop :=
  (∀ x : Byte, (cpl8 x).toNat = 255 - x.toNat ∧ cpl8 (cpl8 x) = x ∧ add8 x (cpl8 x) = 0xFF ∧ x ≠ cpl8 x) ∧
  (∀ n : Nib, (cpl4 n).toNat = 15 - n.toNat) ∧
  (∀ n : Nib, (nibp n).toNat = 16 * n.toNat + (15 - n.toNat) ∧
    (nibp n).toNat / 16 + (nibp n).toNat % 16 = 15) ∧
  (∀ m n : Nib, nibp m = nibp n → m = n)

/-- R146: the checksum of a byte sequence is the sum of its elements mod 256, in any order. -/
def Obligations.ChecksumIsTheSumModulo256 : Prop :=
  sum8 [] = 0 ∧ (∀ (bs : List Byte) (b : Byte), sum8 (bs ++ [b]) = add8 (sum8 bs) b) ∧
  (∀ bs : List Byte, (sum8 bs).toNat = (bs.map BitVec.toNat).sum % 256) ∧
  (∀ bs bs' : List Byte, bs.Perm bs' → sum8 bs = sum8 bs')

/-- R154: the sum of two sub-field codes is the integer sum, or the abort above 255; on disjoint bits it is
their OR. -/
def Obligations.SubFieldSumAborts : Prop :=
  ∀ x y : Byte, (255 < x.toNat + y.toNat ↔ sum2 x y = none) ∧
    (∀ z, sum2 x y = some z → z.toNat = x.toNat + y.toNat) ∧
    (x &&& y = 0 → sum2 x y = some (x ||| y))

/-- R147: element `8n + k` of `PACK(T)` is bit `7-k` of byte `n`, and there are eight for each byte. -/
def Obligations.PackPlacesEveryBit : Prop :=
  ∀ bytes : List Byte, (pack bytes).length = 8 * bytes.length ∧
    ∀ (n k : Nat) (b : Byte), bytes[n]? = some b → k < 8 →
      (pack bytes)[8 * n + k]? = some (b.getLsbD (7 - k))

/-! ## The encoders -/

/-- R251: the number of frames and their lengths, constant for every state. -/
def Obligations.FrameLengthsAreConstant : Prop :=
  ∀ (c : Config) (v : Vendor) (S : Axes) (fs : List Frame), encodeFrames c v S = some fs →
    fs.map List.length =
      match v with
      | .A => [160, 160]
      | .B => [16 * c.bNp]
      | .C => [152]
      | .D => [8 * c.dNb, 48]

/-- R176, R177: the twenty logical bytes of a vendor A block in order, each sent least significant bit first. -/
def Obligations.VendorABytesInOrder : Prop :=
  ∀ (c : Config) (S : Axes), ∃ (f : Fin 2 → Frame) (L : Fin 2 → List Byte),
    encodeFrames c .A S = some [f 0, f 1] ∧
    ∀ k, (L k).length = 20 ∧ (f k).length = 160 ∧
      (∀ i : Fin 3, (L k)[i.val]? = some (c.aHdr k i)) ∧
      (∀ j : Fin 16, (L k)[3 + j.val]? = some
        (if (k, j) = c.aTpos then (if c.aThermo S.mode then 2 * S.temp else c.aFixt S.mode)
          else if (k, j) = c.aPmpos then c.aPm S.power S.mode else c.aRest k j S)) ∧
      (L k)[19]? = some (sum8 (if c.aCkHdr then (L k).take 19 else ((L k).take 19).drop 3)) ∧
      ∀ (n i : Nat) (b : Byte), (L k)[n]? = some b → i < 8 → (f k)[8 * n + i]? = some (b.getLsbD i)

/-- R180: un-reversing the transmitted bytes of a vendor A block gives back its logical bytes, of which the last
is the checksum of the payload, or of header and payload. -/
def Obligations.VendorAChecksumProperty : Prop :=
  ∀ (c : Config) (S : Axes) (fs : List Frame) (k : Fin 2), encodeFrames c .A S = some fs →
    ∃ L T : List Byte, aLogical c k S = some L ∧ fs[k.val]? = some (pack T) ∧
      L.length = 20 ∧ T.map rev8 = L ∧
      L[19]? = some (sum8 (if c.aCkHdr then L.take 19 else (L.take 19).drop 3))

/-- R181: two valid vendor A states that differ only in power, one ON and one OFF, give logical bytes that differ
at exactly two places: the power/mode byte and the checksum of its block. -/
def Obligations.VendorAPowerProperty : Prop :=
  ∀ (c : Config) (S : Axes), c.WF →
    c.ValidAxes .A { S with power := c.aPowerOn } → c.ValidAxes .A { S with power := c.aPowerOff } →
    ∀ (k : Fin 2) (L L' : List Byte),
      aLogical c k { S with power := c.aPowerOn } = some L →
      aLogical c k { S with power := c.aPowerOff } = some L' →
      L.length = 20 ∧ L'.length = 20 ∧
      ∀ n, n < 20 → (L[n]? ≠ L'[n]? ↔ k = c.aPmpos.1 ∧ (n = 3 + c.aPmpos.2.val ∨ n = 19))

/-- R152, R173: the temperature byte of vendor A is twice the temperature in a thermostat mode, without wrapping,
and 42 for COOL at 21 degrees. -/
def Obligations.VendorATemperatureByte : Prop :=
  ∀ (c : Config) (S : Axes), c.WF → c.ValidAxes .A S →
    (c.aThermo S.mode = true → (aPay c c.aTpos.1 c.aTpos.2 S).toNat = 2 * S.temp.toNat) ∧
    (c.aThermo S.mode = false → aPay c c.aTpos.1 c.aTpos.2 S = c.aFixt S.mode) ∧
    (S.mode = c.aModeCool → S.temp = 21 → aPay c c.aTpos.1 c.aTpos.2 S = 42)

/-- R196 to R200: vendor B sends `B_NP` pairs of a byte and its complement. In the numbering from 1, byte `2j - 1`
is literal `j`, sent most significant bit first, or least significant bit first if `B_LSB_FIRST`, and byte `2j` is
its complement; so half of the bits are ones. -/
def Obligations.VendorBComplementProperty : Prop :=
  ∀ (c : Config) (S : Axes), ∃ f, encodeFrames c .B S = some [f] ∧ f.length = 16 * c.bNp ∧
    (∀ j k, 1 ≤ j → j ≤ c.bNp → k < 8 →
      f[16 * (j - 1) + k]? = some ((bLit c j S).getLsbD (if c.bLsbFirst then k else 7 - k)) ∧
      f[16 * (j - 1) + 8 + k]? = some (!(bLit c j S).getLsbD (if c.bLsbFirst then k else 7 - k))) ∧
    (∀ j k, j < c.bNp → k < 8 → f[16 * j + 8 + k]? = (f[16 * j + k]?).map (!·)) ∧
    f.count true = 8 * c.bNp

/-- R192, R193, R195: the literal bytes of vendor B: byte 9 at the minimum temperature, and the six bits of the
temperature field in their place with the other two bits kept. -/
def Obligations.VendorBTemperatureRules : Prop :=
  ∀ (c : Config) (S : Axes), c.WF → c.ValidAxes .B S →
    (S.temp = c.minTemp .B → bLit c 5 S = c.bTmarkMin) ∧
    (S.temp ≠ c.minTemp .B → bLit c 5 S = c.bRest 5 S ∧ bLit c 5 S ≠ c.bTmarkMin) ∧
    (∀ k, k < 4 → (bLit c c.bTfpos S).getLsbD (c.bTflsb.val + k) = (c.bTnib S.temp).getLsbD k) ∧
    (∀ k, k < 2 → (bLit c c.bTfpos S).getLsbD (c.bTflsb.val + 4 + k) =
      (if S.temp = c.maxTemp .B then c.bMaxm1 else c.bMaxm0).getLsbD k) ∧
    (∀ k, k < c.bTflsb.val ∨ c.bTflsb.val + 6 ≤ k →
      (bLit c c.bTfpos S).getLsbD k = (c.bRest c.bTfpos S).getLsbD k) ∧
    (∀ j, j ≠ 5 → j ≠ c.bTfpos → bLit c j S = c.bRest j S)

/-- R212, R217, R220: the nineteen bytes of vendor C: the body with its two sums, sent least significant bit
first, and the checksum over them, sent most significant bit first. -/
def Obligations.VendorCBytesInOrder : Prop :=
  ∀ (c : Config) (S : Axes) (fs : List Frame), c.WF → encodeFrames c .C S = some fs →
    ∃ (B : List Byte) (ck : Byte) (f : Frame), fs = [f] ∧ B.length = 18 ∧ f.length = 152 ∧
      (∀ j : Fin 18, j ≠ c.cFanpos → j ≠ c.cExtpos → B[j.val]? = some (c.cRest j S)) ∧
      ((B[c.cFanpos.val]?).map BitVec.toNat = some ((c.cFan1 S).toNat + (c.cFan2 S).toNat)) ∧
      ((B[c.cExtpos.val]?).map BitVec.toNat = some ((c.cExt1 S).toNat + (c.cExt2 S).toNat)) ∧
      ck = sum8 (if c.cCkRev then B.map rev8 else B) ∧
      (∀ (n i : Nat) (b : Byte), B[n]? = some b → i < 8 → f[8 * n + i]? = some (b.getLsbD i)) ∧
      (∀ i, i < 8 → f[144 + i]? = some (ck.getLsbD (7 - i)))

/-- R233 to R240: the main frame of vendor D is `D_NB` bytes, each a data nibble and its complement, so half of
its bits are ones; the footer is six bytes as configured. -/
def Obligations.VendorDNibblePairs : Prop :=
  ∀ (c : Config) (S : Axes), ∃ f g, encodeFrames c .D S = some [f, g] ∧
    f.length = 8 * c.dNb ∧ g.length = 48 ∧ f.count true = 4 * c.dNb ∧
    (∀ i k, i < c.dNb → k < 4 →
      f[8 * i + k]? = some ((if i = c.dTpos then c.tlutD S.temp else c.dRest i S).getLsbD (3 - k)) ∧
      f[8 * i + 4 + k]? = (f[8 * i + k]?).map (!·)) ∧
    (∀ (i : Fin 6) (k : Nat), k < 8 → g[8 * i.val + k]? = some ((c.dFoot i S).getLsbD (7 - k)))

/-- R233: temperatures 16 and 17 give the same vendor D main frame, its temperature nibble 0, when no other
nibble reads the temperature. -/
def Obligations.VendorDSixteenAndSeventeen : Prop :=
  ∀ (c : Config) (S : Axes), c.WF →
    (∀ i, i ≠ c.dTpos → c.dRest i { S with temp := 16 } = c.dRest i { S with temp := 17 }) →
    dNib c c.dTpos { S with temp := 16 } = 0 ∧ dNib c c.dTpos { S with temp := 17 } = 0 ∧
    ∃ f g g', encodeFrames c .D { S with temp := 16 } = some [f, g] ∧
      encodeFrames c .D { S with temp := 17 } = some [f, g']

/-! ## The waveform assembler -/

/-- R276, R277, R280: the wave of an encoding has `wavelen(v)` entries, an odd number, within the pulse buffer,
every entry at least 1. -/
def Obligations.WaveLengthIsConstantAndOdd : Prop :=
  ∀ (c : Config) (v : Vendor) (S : Axes) (fs : List Frame), c.WF → encodeFrames c v S = some fs →
    (assemble c v fs).length = c.wavelen v ∧ c.wavelen v % 2 = 1 ∧ c.wavelen v ≤ c.pulseMax ∧
    ∀ d ∈ assemble c v fs, 1 ≤ d.toNat

/-- R273, R274, R276: every segment starts at an even index of the wave. From there the durations of a `LIT` stand
unchanged, and each bit of a `DATA` is the mark at an even index and the one-space or zero-space after it. -/
def Obligations.SegmentsExpandInPlace : Prop :=
  ∀ (c : Config) (v : Vendor) (fs : List Frame) (before after : List Seg) (seg : Seg),
    c.WF → c.segs v = before ++ seg :: after →
    let at0 := (before.flatMap (segWave c v fs)).length
    at0 % 2 = 0 ∧
    match seg with
    | .lit ds => ∀ (i : Nat) (d : Dur), ds[i]? = some d → (assemble c v fs)[at0 + i]? = some d
    | .data f => ∀ (i : Nat) (b : Bit), (fs.getD f [])[i]? = some b →
        (assemble c v fs)[at0 + 2 * i]? = some (c.mark v) ∧
        (assemble c v fs)[at0 + 2 * i + 1]? = some (if b then c.oneSpace v else c.zeroSpace v)

/-- R280: the frames can be read back from the wave: two encodings of one vendor with equal waves are equal. -/
def Obligations.WaveDeterminesTheFrames : Prop :=
  ∀ (c : Config) (v : Vendor) (S S' : Axes) (fs fs' : List Frame), c.WF →
    encodeFrames c v S = some fs → encodeFrames c v S' = some fs' →
    assemble c v fs = assemble c v fs' → fs = fs'

/-! ## The whole machine -/

/-- R26, R33, R34: every step keeps the invariant. -/
def Obligations.StepKeepsTheInvariant : Prop :=
  ∀ s t : State, s.block.Inv Config.cfg → step s = .next t → t.block.Inv Config.cfg

/-- The invariant holds at reset. -/
def Obligations.ResetMeetsTheInvariant : Prop := State.reset.block.Inv Config.cfg

/-- R36, R37, R39: every step keeps the frame buffer and the pulse buffer within their capacities. -/
def Obligations.StepKeepsTheBuffersWithinCapacity : Prop :=
  ∀ s t : State, Memory.wf Config.cfg s.block = true → step s = .next t →
    Memory.wf Config.cfg t.block = true

/-- R84, R312: a response with an error code has the data word 0 and emits no event; it changes nothing in the
block, but that `ERR_FATAL` sets `FATAL` and clears both valid bits. -/
def Obligations.ErrorsChangeNothingElse : Prop :=
  ∀ (i : Instr) (s t : State) (e : Err) (d : Word), exec i s = .next t →
    t.port.resp = some { code := .err e, data := d } →
    d = 0 ∧ t.port.saveReq = false ∧ t.port.pending = s.port.pending ∧
    t.block = if e = .fatal then { s.block with fatal := true, frames := none, wave := none } else s.block

/-- R309: which command can return which code. -/
def Obligations.CodesOfEachCommand : Prop :=
  ∀ (c : WfConfig) (i : Instr) (s : State) (e : Err) (d : Word), i.wellFormed = true →
    (runCmd c i s).port.resp = some { code := .err e, data := d } →
    match i with
    | .nop => False
    | .init _ => e = .model
    | .set _ _ => e = .type ∨ e = .noinst
    | .get _ => e = .noinst
    | .capq _ _ => e = .noinst
    | .info n => (e = .noinst ∧ n ≠ 4) ∨ (e = .stale ∧ n = 5)
    | .enc => e = .fatal ∨ e = .noinst
    | .asm => e = .fatal ∨ e = .noinst
    | .flen _ => e = .noinst ∨ e = .range ∨ e = .stale
    | .rdbit _ _ => e = .noinst ∨ e = .range ∨ e = .stale
    | .wlen => e = .noinst ∨ e = .stale
    | .rdpulse _ => e = .noinst ∨ e = .range ∨ e = .stale
    | _ => False

/-- R31, R32: only reset clears `INST` and `FATAL`: a step that takes no reset input keeps each bit that is set. -/
def Obligations.OnlyResetClearsInstAndFatal : Prop :=
  ∀ s t : State, step s = .next t → (∀ rest, s.port.pending ≠ .reset :: rest) →
    (s.block.app ≠ none → t.block.app ≠ none) ∧ (s.block.fatal = true → t.block.fatal = true)

/-- R27, R111: only `INIT` and `SET` write `VENDOR` or an axis register, and only `INIT` can change `VENDOR`. -/
def Obligations.OnlyInitAndSetWriteTheInstance : Prop :=
  ∀ (c : WfConfig) (i : Instr) (s : State), (∀ v, i ≠ .init v) →
    ((∀ a x, i ≠ .set a x) → (runCmd c i s).block.app = s.block.app) ∧
    (runCmd c i s).block.app.map Appliance.vendor = s.block.app.map Appliance.vendor

/-- R35, R61: the trace grows by one `Save` exactly when a `SET` writes an axis register, with the strobe, and is
otherwise unchanged. -/
def Obligations.SaveExactlyOnAcceptedSet : Prop :=
  ∀ (c : WfConfig) (i : Instr) (s : State),
    (runCmd c i s).block.trace =
      (if (runCmd c i s).port.saveReq then s.block.trace ++ [.save] else s.block.trace) ∧
    ((runCmd c i s).port.saveReq = true ↔
      ∃ ax x p w, i = .set (axisNum ax) x ∧ s.block.app = some p ∧ x ≠ 0 ∧
        settledValue c.val p.vendor ax x = some w)

/-- R61: reads have no side effect, and repeating one returns the same response. -/
def Obligations.ReadsHaveNoSideEffect : Prop :=
  ∀ (c : WfConfig) (i : Instr) (s : State),
    (match i with
      | .init _ => False
      | .set _ _ => False
      | .enc => False
      | .asm => False
      | _ => True) →
    (runCmd c i s).block = s.block ∧ (runCmd c i s).port.saveReq = false ∧
    runCmd c i (runCmd c i s) = runCmd c i s

/-- R61, R253: encoding or assembling twice gives the same state and the same response as once. -/
def Obligations.EncodingTwiceIsEncodingOnce : Prop :=
  ∀ (c : WfConfig) (s : State),
    runCmd c .enc (runCmd c .enc s) = runCmd c .enc s ∧ runCmd c .asm (runCmd c .asm s) = runCmd c .asm s

/-- R351: after an accepted `INIT` or an accepted non-zero `SET` every read of either buffer is `ERR_STALE`. -/
def Obligations.WritesMakeTheBuffersStale : Prop :=
  ∀ (c : WfConfig) (i : Instr) (s : State),
    ((∃ v, i = .init (vendorCode v)) ∨
      (∃ ax x p w, i = .set (axisNum ax) x ∧ s.block.app = some p ∧ x ≠ 0 ∧
        settledValue c.val p.vendor ax x = some w)) →
    ∀ j : Instr, (j = .wlen ∨ j = .info 5 ∨ (∃ f, j = .flen f) ∨ (∃ f k, j = .rdbit f k) ∨
        (∃ k, j = .rdpulse k)) →
      (runCmd c j (runCmd c i s)).port.resp = some { code := .err .stale, data := 0 }

/-- R342: what each legal command answers between reset and the first accepted `INIT`. -/
def Obligations.AnswersBeforeTheFirstInit : Prop :=
  ∀ (c : WfConfig) (i : Instr) (s : State), s.block.app = none → s.block.frames = none →
    s.block.wave = none → s.block.fatal = false → i.wellFormed = true →
    match i with
    | .nop => (runCmd c i s).port.resp = some { code := .okay, data := 0 }
    | .info n => (runCmd c i s).port.resp =
        some (if n = 4 then { code := .okay, data := 0 } else { code := .err .noinst, data := 0 })
    | .init v =>
        if v.toNat ≤ 3 then (runCmd c i s).block.app ≠ none ∧
          (runCmd c i s).port.resp = some { code := .okay, data := 0 }
        else (runCmd c i s).block.app = none ∧
          (runCmd c i s).port.resp = some { code := .err .model, data := 0 }
    | .engRev8 x => (runCmd c i s).port.resp = some { code := .okay, data := (rev8 x).setWidth 32 }
    | .engCpl8 x => (runCmd c i s).port.resp = some { code := .okay, data := (cpl8 x).setWidth 32 }
    | .engCpl4 x => (runCmd c i s).port.resp = some { code := .okay, data := (cpl4 x).setWidth 32 }
    | .engNibp x => (runCmd c i s).port.resp = some { code := .okay, data := (nibp x).setWidth 32 }
    | .engAdd8 y x => (runCmd c i s).port.resp = some { code := .okay, data := (add8 y x).setWidth 32 }
    | .engTlutd x => (runCmd c i s).port.resp = some { code := .okay, data := (tlutD c.val x).setWidth 32 }
    | .engTnibb x => (runCmd c i s).port.resp = some { code := .okay, data := (tnibB c.val x).setWidth 32 }
    | .engTcodea y x => (runCmd c i s).port.resp = some { code := .okay, data := (tcodeA c.val y x).setWidth 32 }
    | .engTfldb x => (runCmd c i s).port.resp = some { code := .okay, data := (tfieldB c.val x).setWidth 32 }
    | _ => (runCmd c i s).port.resp = some { code := .err .noinst, data := 0 }
end

