-- ==== Sys2Proof/Laws/Assembler.lean ====
section
/-! SUPPORT. The length of what the assembler appends for a bit, a frame, a segment (R273, R277). -/

namespace Sys2Proof.Machine

variable (c : Config) (v : Vendor)

@[simp] theorem expandBit_length (b : Bit) : (expandBit c v b).length = 2 := rfl

@[simp] theorem expandFrame_nil : expandFrame c v [] = [] := rfl
@[simp] theorem expandFrame_cons (b : Bit) (f : Frame) :
    expandFrame c v (b :: f) = expandBit c v b ++ expandFrame c v f := rfl

@[simp] theorem expandFrame_length (f : Frame) : (expandFrame c v f).length = 2 * f.length := by
  induction f with
  | nil => rfl
  | cons b f ih => simp only [expandFrame_cons, List.length_append, expandBit_length, ih,
      List.length_cons]; omega

@[simp] theorem segWave_lit (fs : List Frame) (ds : List Dur) : segWave c v fs (.lit ds) = ds := rfl
@[simp] theorem segWave_data (fs : List Frame) (f : Nat) :
    segWave c v fs (.data f) = expandFrame c v (fs.getD f []) := rfl

theorem assemble_length (fs : List Frame) :
    (assemble c v fs).length = ((c.segs v).map fun g => (segWave c v fs g).length).sum := by
  simp [assemble, List.length_flatMap]

/-- What stands in a wave: durations of the literals, the mark and the two spaces (R274). -/
theorem mem_assemble {fs : List Frame} {d : Dur} (h : d ∈ assemble c v fs) :
    (∃ ds, .lit ds ∈ c.segs v ∧ d ∈ ds) ∨ d = c.mark v ∨ d = c.oneSpace v ∨ d = c.zeroSpace v := by
  simp only [assemble, List.mem_flatMap] at h
  obtain ⟨g, hg, hd⟩ := h
  cases g with
  | lit ds => exact .inl ⟨ds, hg, hd⟩
  | data f =>
    simp only [segWave_data, expandFrame, List.mem_flatMap, expandBit] at hd
    obtain ⟨b, _, hb⟩ := hd
    cases b <;> simp_all <;> tauto

end Sys2Proof.Machine
end

