-- ==== Sys2Proof/Laws/State.lean ====
section
/-! SUPPORT. One lemma per field per update of the state, each true by `rfl`, so that no later proof
unfolds a record update. -/

namespace Sys2Proof.Machine

/-! ## respond, okay, raise -/

@[simp] theorem respond_block (k : RespCode) (d : Word) (s : State) : (respond k d s).block = s.block := rfl
@[simp] theorem respond_pending (k : RespCode) (d : Word) (s : State) :
    (respond k d s).port.pending = s.port.pending := rfl
@[simp] theorem respond_resp (k : RespCode) (d : Word) (s : State) :
    (respond k d s).port.resp = some { code := k, data := d } := rfl
@[simp] theorem respond_saveReq (k : RespCode) (d : Word) (s : State) :
    (respond k d s).port.saveReq = false := rfl

@[simp] theorem okay_block (d : Word) (s : State) : (okay d s).block = s.block := rfl
@[simp] theorem okay_pending (d : Word) (s : State) : (okay d s).port.pending = s.port.pending := rfl
@[simp] theorem okay_resp (d : Word) (s : State) :
    (okay d s).port.resp = some { code := .okay, data := d } := rfl
@[simp] theorem okay_saveReq (d : Word) (s : State) : (okay d s).port.saveReq = false := rfl

@[simp] theorem raise_block (e : Err) (s : State) : (raise e s).block = errBlock e s.block := rfl
@[simp] theorem raise_pending (e : Err) (s : State) : (raise e s).port.pending = s.port.pending := rfl
@[simp] theorem raise_resp (e : Err) (s : State) :
    (raise e s).port.resp = some { code := .err e, data := 0 } := rfl
@[simp] theorem raise_saveReq (e : Err) (s : State) : (raise e s).port.saveReq = false := rfl

/-! ## errBlock, clearValid, setFatal -/

@[simp] theorem errBlock_fatal (b : Block) : errBlock .fatal b = setFatal b := rfl
@[simp] theorem errBlock_type (b : Block) : errBlock .type b = b := rfl
@[simp] theorem errBlock_model (b : Block) : errBlock .model b = b := rfl
@[simp] theorem errBlock_noinst (b : Block) : errBlock .noinst b = b := rfl
@[simp] theorem errBlock_illegal (b : Block) : errBlock .illegal b = b := rfl
@[simp] theorem errBlock_range (b : Block) : errBlock .range b = b := rfl
@[simp] theorem errBlock_stale (b : Block) : errBlock .stale b = b := rfl

@[simp] theorem clearValid_app (b : Block) : (clearValid b).app = b.app := rfl
@[simp] theorem clearValid_frames (b : Block) : (clearValid b).frames = none := rfl
@[simp] theorem clearValid_wave (b : Block) : (clearValid b).wave = none := rfl
@[simp] theorem clearValid_fatal (b : Block) : (clearValid b).fatal = b.fatal := rfl
@[simp] theorem clearValid_trace (b : Block) : (clearValid b).trace = b.trace := rfl

@[simp] theorem setFatal_app (b : Block) : (setFatal b).app = b.app := rfl
@[simp] theorem setFatal_frames (b : Block) : (setFatal b).frames = none := rfl
@[simp] theorem setFatal_wave (b : Block) : (setFatal b).wave = none := rfl
@[simp] theorem setFatal_fatal (b : Block) : (setFatal b).fatal = true := rfl
@[simp] theorem setFatal_trace (b : Block) : (setFatal b).trace = b.trace := rfl

/-! ## emitSave -/

@[simp] theorem emitSave_app (s : State) : (emitSave s).block.app = s.block.app := rfl
@[simp] theorem emitSave_frames (s : State) : (emitSave s).block.frames = s.block.frames := rfl
@[simp] theorem emitSave_wave (s : State) : (emitSave s).block.wave = s.block.wave := rfl
@[simp] theorem emitSave_fatal (s : State) : (emitSave s).block.fatal = s.block.fatal := rfl
@[simp] theorem emitSave_trace (s : State) : (emitSave s).block.trace = s.block.trace ++ [.save] := rfl
@[simp] theorem emitSave_pending (s : State) : (emitSave s).port.pending = s.port.pending := rfl
@[simp] theorem emitSave_resp (s : State) : (emitSave s).port.resp = s.port.resp := rfl
@[simp] theorem emitSave_saveReq (s : State) : (emitSave s).port.saveReq = true := rfl

/-! ## writeAxis, construct, latchFrames, latchWave -/

@[simp] theorem writeAxis_app (p : Appliance) (a : Axis) (w : Byte) (s : State) :
    (writeAxis p a w s).block.app = some { p with ax := setAxis p.ax a w } := rfl
@[simp] theorem writeAxis_frames (p : Appliance) (a : Axis) (w : Byte) (s : State) :
    (writeAxis p a w s).block.frames = none := rfl
@[simp] theorem writeAxis_wave (p : Appliance) (a : Axis) (w : Byte) (s : State) :
    (writeAxis p a w s).block.wave = none := rfl
@[simp] theorem writeAxis_fatal (p : Appliance) (a : Axis) (w : Byte) (s : State) :
    (writeAxis p a w s).block.fatal = s.block.fatal := rfl
@[simp] theorem writeAxis_trace (p : Appliance) (a : Axis) (w : Byte) (s : State) :
    (writeAxis p a w s).block.trace = s.block.trace := rfl
@[simp] theorem writeAxis_port (p : Appliance) (a : Axis) (w : Byte) (s : State) :
    (writeAxis p a w s).port = s.port := rfl

@[simp] theorem construct_app (p : Appliance) (s : State) : (construct p s).block.app = some p := rfl
@[simp] theorem construct_frames (p : Appliance) (s : State) : (construct p s).block.frames = none := rfl
@[simp] theorem construct_wave (p : Appliance) (s : State) : (construct p s).block.wave = none := rfl
@[simp] theorem construct_fatal (p : Appliance) (s : State) :
    (construct p s).block.fatal = s.block.fatal := rfl
@[simp] theorem construct_trace (p : Appliance) (s : State) :
    (construct p s).block.trace = s.block.trace := rfl
@[simp] theorem construct_port (p : Appliance) (s : State) : (construct p s).port = s.port := rfl

@[simp] theorem latchFrames_app (fs : List Frame) (s : State) :
    (latchFrames fs s).block.app = s.block.app := rfl
@[simp] theorem latchFrames_frames (fs : List Frame) (s : State) :
    (latchFrames fs s).block.frames = some fs := rfl
@[simp] theorem latchFrames_wave (fs : List Frame) (s : State) :
    (latchFrames fs s).block.wave = s.block.wave := rfl
@[simp] theorem latchFrames_fatal (fs : List Frame) (s : State) :
    (latchFrames fs s).block.fatal = s.block.fatal := rfl
@[simp] theorem latchFrames_trace (fs : List Frame) (s : State) :
    (latchFrames fs s).block.trace = s.block.trace := rfl
@[simp] theorem latchFrames_port (fs : List Frame) (s : State) : (latchFrames fs s).port = s.port := rfl

@[simp] theorem latchWave_app (fs : List Frame) (w : Wave) (s : State) :
    (latchWave fs w s).block.app = s.block.app := rfl
@[simp] theorem latchWave_frames (fs : List Frame) (w : Wave) (s : State) :
    (latchWave fs w s).block.frames = some fs := rfl
@[simp] theorem latchWave_wave (fs : List Frame) (w : Wave) (s : State) :
    (latchWave fs w s).block.wave = some w := rfl
@[simp] theorem latchWave_fatal (fs : List Frame) (w : Wave) (s : State) :
    (latchWave fs w s).block.fatal = s.block.fatal := rfl
@[simp] theorem latchWave_trace (fs : List Frame) (w : Wave) (s : State) :
    (latchWave fs w s).block.trace = s.block.trace := rfl
@[simp] theorem latchWave_port (fs : List Frame) (w : Wave) (s : State) :
    (latchWave fs w s).port = s.port := rfl

/-! ## The port -/

@[simp] theorem takeReset_block (s : State) : (takeReset s).block = Block.reset := rfl
@[simp] theorem takeReset_pending (s : State) : (takeReset s).port.pending = s.port.pending := rfl
@[simp] theorem placeCommand_block (s : State) (w : Word) : (placeCommand s w).block = s.block := rfl
@[simp] theorem placeCommand_pending (s : State) (w : Word) :
    (placeCommand s w).port.pending = .command w :: s.port.pending := rfl

/-! ## The same operations as whole states -/

theorem okay_eq_answered (d : Word) (s : State) : okay d s = answered s .okay d false s.block := rfl
theorem raise_eq_answered (e : Err) (s : State) :
    raise e s = answered s (.err e) 0 false (errBlock e s.block) := rfl
theorem emitSave_okay_eq_answered (d : Word) (s : State) :
    emitSave (okay d s) =
      answered s .okay d true { s.block with trace := s.block.trace ++ [.save] } := rfl

@[simp] theorem answered_block (s : State) (k : RespCode) (d : Word) (v : Bool) (b : Block) :
    (answered s k d v b).block = b := rfl
@[simp] theorem answered_pending (s : State) (k : RespCode) (d : Word) (v : Bool) (b : Block) :
    (answered s k d v b).port.pending = s.port.pending := rfl
@[simp] theorem answered_resp (s : State) (k : RespCode) (d : Word) (v : Bool) (b : Block) :
    (answered s k d v b).port.resp = some { code := k, data := d } := rfl
@[simp] theorem answered_saveReq (s : State) (k : RespCode) (d : Word) (v : Bool) (b : Block) :
    (answered s k d v b).port.saveReq = v := rfl

/-! ## The axis registers -/

@[simp] theorem get_setAxis_same (S : Axes) (a : Axis) (w : Byte) : (setAxis S a w).get a = w := by
  cases a <;> rfl
theorem get_setAxis_other (S : Axes) (a a' : Axis) (w : Byte) (h : a' ≠ a) :
    (setAxis S a w).get a' = S.get a' := by
  cases a <;> cases a' <;> first | rfl | exact absurd rfl h

end Sys2Proof.Machine
end

