-- ==== Sys2Proof/Laws/Ops.lean ====
section
/-! SUPPORT. One lemma for each shared operation that says once everything it can do; later proofs cite
these and do not unfold the operation. -/

namespace Sys2Proof.Machine

/-! ## The tests of R310 -/

theorem withInstance_none {s : State} (k : Appliance → State) (h : s.block.app = none) :
    withInstance s k = raise .noinst s := by
  simp [withInstance, h]
theorem withInstance_some {s : State} {p : Appliance} (k : Appliance → State) (h : s.block.app = some p) :
    withInstance s k = k p := by
  simp [withInstance, h]
theorem withInstance_cases (s : State) (k : Appliance → State) :
    (s.block.app = none ∧ withInstance s k = raise .noinst s) ∨
    (∃ p, s.block.app = some p ∧ withInstance s k = k p) := by
  cases h : s.block.app with
  | none => exact .inl ⟨rfl, withInstance_none k h⟩
  | some p => exact .inr ⟨p, rfl, withInstance_some k h⟩

theorem withFrames_none {s : State} (k : List Frame → State) (h : s.block.frames = none) :
    withFrames s k = raise .stale s := by
  simp [withFrames, h]
theorem withFrames_some {s : State} {fs : List Frame} (k : List Frame → State)
    (h : s.block.frames = some fs) : withFrames s k = k fs := by
  simp [withFrames, h]
theorem withFrames_cases (s : State) (k : List Frame → State) :
    (s.block.frames = none ∧ withFrames s k = raise .stale s) ∨
    (∃ fs, s.block.frames = some fs ∧ withFrames s k = k fs) := by
  cases h : s.block.frames with
  | none => exact .inl ⟨rfl, withFrames_none k h⟩
  | some fs => exact .inr ⟨fs, rfl, withFrames_some k h⟩

theorem withWave_none {s : State} (k : Wave → State) (h : s.block.wave = none) :
    withWave s k = raise .stale s := by
  simp [withWave, h]
theorem withWave_some {s : State} {w : Wave} (k : Wave → State) (h : s.block.wave = some w) :
    withWave s k = k w := by
  simp [withWave, h]
theorem withWave_cases (s : State) (k : Wave → State) :
    (s.block.wave = none ∧ withWave s k = raise .stale s) ∨
    (∃ w, s.block.wave = some w ∧ withWave s k = k w) := by
  cases h : s.block.wave with
  | none => exact .inl ⟨rfl, withWave_none k h⟩
  | some w => exact .inr ⟨w, rfl, withWave_some k h⟩

theorem withAxis_none {a : BitVec 4} {s : State} (k : Axis → State) (h : axisOf a = none) :
    withAxis a s k = raise .illegal s := by
  simp [withAxis, h]
theorem withAxis_some {a : BitVec 4} {s : State} {ax : Axis} (k : Axis → State) (h : axisOf a = some ax) :
    withAxis a s k = k ax := by
  simp [withAxis, h]
theorem withAxis_cases (a : BitVec 4) (s : State) (k : Axis → State) :
    (axisOf a = none ∧ withAxis a s k = raise .illegal s) ∨
    (∃ ax, axisOf a = some ax ∧ withAxis a s k = k ax) := by
  cases h : axisOf a with
  | none => exact .inl ⟨rfl, withAxis_none k h⟩
  | some ax => exact .inr ⟨ax, rfl, withAxis_some k h⟩

theorem withSelector_none {n : BitVec 4} {s : State} (k : Selector → State) (h : selectorOf n = none) :
    withSelector n s k = raise .illegal s := by
  simp [withSelector, h]
theorem withSelector_some {n : BitVec 4} {s : State} {sel : Selector} (k : Selector → State)
    (h : selectorOf n = some sel) : withSelector n s k = k sel := by
  simp [withSelector, h]
theorem withSelector_cases (n : BitVec 4) (s : State) (k : Selector → State) :
    (selectorOf n = none ∧ withSelector n s k = raise .illegal s) ∨
    (∃ sel, selectorOf n = some sel ∧ withSelector n s k = k sel) := by
  cases h : selectorOf n with
  | none => exact .inl ⟨rfl, withSelector_none k h⟩
  | some sel => exact .inr ⟨sel, rfl, withSelector_some k h⟩

/-! ## Operands -/

@[simp] theorem axisOf_axisNum (a : Axis) : axisOf (axisNum a) = some a := by cases a <;> rfl
theorem axisNum_of_axisOf {a : BitVec 4} {ax : Axis} (h : axisOf a = some ax) : axisNum ax = a := by
  revert a ax; decide
theorem axisOf_isSome (a : BitVec 4) : (axisOf a).isSome = axisNumOk a := by
  revert a; decide
@[simp] theorem vendorOf_vendorCode (v : Vendor) : vendorOf (vendorCode v) = some v := by cases v <;> rfl
theorem vendorCode_of_vendorOf {x : Byte} {v : Vendor} (h : vendorOf x = some v) : vendorCode v = x := by
  revert x v; decide +kernel
theorem vendorOf_eq_none (x : Byte) : vendorOf x = none ↔ 3 < x.toNat := by
  revert x; decide +kernel
@[simp] theorem selectorOf_selectorNum (n : Selector) : selectorOf (selectorNum n) = some n := by
  cases n <;> rfl
theorem selectorNum_of_selectorOf {n : BitVec 4} {sel : Selector} (h : selectorOf n = some sel) :
    selectorNum sel = n := by
  revert n sel; decide
theorem selectorOf_isSome (n : BitVec 4) : (selectorOf n).isSome = selectorNumOk n := by
  revert n; decide

/-! ## The port -/

/-- Everything `fetch` can find. -/
theorem fetch_cases (s : State) :
    (s.port.pending = [] ∧ fetch s = .idle) ∨
    (∃ rest, s.port.pending = .reset :: rest ∧
      fetch s = .reset { s with port := { s.port with pending := rest } }) ∨
    (∃ w rest e, s.port.pending = .command w :: rest ∧ decode w = .error e ∧
      fetch s = .illegal { s with port := { s.port with pending := rest } }) ∨
    (∃ w rest i, s.port.pending = .command w :: rest ∧ decode w = .ok i ∧
      fetch s = .command i { s with port := { s.port with pending := rest } }) := by
  cases h : s.port.pending with
  | nil => exact .inl ⟨rfl, by simp [fetch, h]⟩
  | cons x rest =>
    cases x with
    | reset => exact .inr (.inl ⟨rest, rfl, by simp [fetch, h]⟩)
    | command w =>
      cases d : decode w with
      | error e => exact .inr (.inr (.inl ⟨w, rest, e, rfl, d, by simp [fetch, h, d]⟩))
      | ok i => exact .inr (.inr (.inr ⟨w, rest, i, rfl, d, by simp [fetch, h, d]⟩))

/-! ## Values that a command writes -/

/-- What a non-zero `SET` can write: the clamped temperature, or a member of the domain. -/
theorem settledValue_cases {c : Config} {v : Vendor} {a : Axis} {x w : Byte}
    (h : settledValue c v a x = some w) :
    (a = .temp ∧ w = clampTemp c v x) ∨ (a ≠ .temp ∧ c.dom v a x = true ∧ w = x) := by
  unfold settledValue at h
  split at h
  · next ha => exact .inl ⟨ha, by simpa using h.symm⟩
  · next ha =>
    split at h
    · next hd => exact .inr ⟨ha, hd, by simpa using h.symm⟩
    · cases h

/-- The clamped temperature lies within the bounds (R117). -/
theorem clampTemp_bounds {c : Config} (hc : c.WF) (v : Vendor) (x : Byte) :
    (c.minTemp v).toNat ≤ (clampTemp c v x).toNat ∧ (clampTemp c v x).toNat ≤ (c.maxTemp v).toNat := by
  have := hc.temp_order v
  unfold clampTemp
  split
  · omega
  · split <;> omega

end Sys2Proof.Machine
end

