-- ==== Sys2Proof/Laws/Commands.lean ====
section
/-! SUPPORT. What a command can do, said once: `runCmd_cases` lists every state a command can leave, and
`exec_eq_runCmd` ties the meanings to it. Invariants are derived from these two. -/

namespace Sys2Proof.Machine

/-- The meaning of a command is `runCmd` at the machine's configuration; no command faults or is refused. -/
theorem exec_eq_runCmd (i : Instr) (s : State) : exec i s = .next (runCmd Config.given i s) := by
  cases i <;> rfl

/-- A command that answers and leaves the block as it was. -/
def Reads (t s : State) : Prop := (∃ d, t = okay d s) ∨ (∃ e, e ≠ .fatal ∧ t = raise e s)

theorem reads_okay (d : Word) (s : State) : Reads (okay d s) s := .inl ⟨d, rfl⟩
theorem reads_raise {e : Err} (h : e ≠ .fatal) (s : State) : Reads (raise e s) s := .inr ⟨e, h, rfl⟩

theorem reads_block {t s : State} (h : Reads t s) : t.block = s.block := by
  rcases h with ⟨d, rfl⟩ | ⟨e, he, rfl⟩
  · rfl
  · cases e <;> first | rfl | exact absurd rfl he

theorem reads_withInstance {s : State} {k : Appliance → State} (h : ∀ p, Reads (k p) s) :
    Reads (withInstance s k) s := by
  rcases withInstance_cases s k with ⟨_, e⟩ | ⟨p, _, e⟩
  · exact e ▸ reads_raise (by decide) s
  · exact e ▸ h p
theorem reads_withFrames {s : State} {k : List Frame → State} (h : ∀ fs, Reads (k fs) s) :
    Reads (withFrames s k) s := by
  rcases withFrames_cases s k with ⟨_, e⟩ | ⟨p, _, e⟩
  · exact e ▸ reads_raise (by decide) s
  · exact e ▸ h p
theorem reads_withWave {s : State} {k : Wave → State} (h : ∀ w, Reads (k w) s) :
    Reads (withWave s k) s := by
  rcases withWave_cases s k with ⟨_, e⟩ | ⟨p, _, e⟩
  · exact e ▸ reads_raise (by decide) s
  · exact e ▸ h p
theorem reads_withAxis {a : BitVec 4} {s : State} {k : Axis → State} (h : ∀ ax, Reads (k ax) s) :
    Reads (withAxis a s k) s := by
  rcases withAxis_cases a s k with ⟨_, e⟩ | ⟨p, _, e⟩
  · exact e ▸ reads_raise (by decide) s
  · exact e ▸ h p

/-! ## The commands that only read -/

theorem getCmd_reads (a : BitVec 4) (s : State) : Reads (getCmd a s) s :=
  reads_withAxis fun _ => reads_withInstance fun _ => reads_okay _ s
theorem capqCmd_reads (c : WfConfig) (a : BitVec 4) (x : Byte) (s : State) : Reads (capqCmd c a x s) s :=
  reads_withAxis fun _ => reads_withInstance fun _ => reads_okay _ s
theorem infoCmd_reads (c : WfConfig) (n : BitVec 4) (s : State) : Reads (infoCmd c n s) s := by
  unfold infoCmd
  rcases withSelector_cases n s _ with ⟨_, e⟩ | ⟨sel, _, e⟩
  · exact e ▸ reads_raise (by decide) s
  · rw [e]
    cases sel <;> first
      | exact reads_okay _ s
      | exact reads_withInstance fun _ => reads_okay _ s
      | exact reads_withInstance fun _ => reads_withFrames fun _ => reads_okay _ s
theorem flenCmd_reads (f : BitVec 1) (s : State) : Reads (flenCmd f s) s :=
  reads_withInstance fun _ => reads_withFrames fun fs => by
    cases h : readFlen fs f.toNat
    · exact reads_raise (by decide) s
    · exact reads_okay _ s
theorem rdbitCmd_reads (f : BitVec 1) (k : BitVec 16) (s : State) : Reads (rdbitCmd f k s) s :=
  reads_withInstance fun _ => reads_withFrames fun fs => by
    cases h : readBit fs f.toNat k.toNat
    · exact reads_raise (by decide) s
    · exact reads_okay _ s
theorem wlenCmd_reads (s : State) : Reads (wlenCmd s) s :=
  reads_withInstance fun _ => reads_withWave fun _ => reads_okay _ s
theorem rdpulseCmd_reads (k : BitVec 16) (s : State) : Reads (rdpulseCmd k s) s :=
  reads_withInstance fun _ => reads_withWave fun w => by
    cases h : readPulse w k.toNat
    · exact reads_raise (by decide) s
    · exact reads_okay _ s

/-! ## The commands that write -/

/-- Everything `INIT` can do (R111). -/
theorem initCmd_cases (c : WfConfig) (v : Byte) (s : State) :
    (vendorOf v = none ∧ initCmd c v s = raise .model s) ∨
    (∃ w, vendorOf v = some w ∧ initCmd c v s = okay 0 (construct (freshInstance c.val w) s)) := by
  cases h : vendorOf v with
  | none => exact .inl ⟨rfl, by simp [initCmd, h]⟩
  | some w => exact .inr ⟨w, rfl, by simp [initCmd, h]⟩

/-- Everything `SET` can do (R113). -/
theorem setCmd_cases (c : WfConfig) (a : BitVec 4) (x : Byte) (s : State) :
    Reads (setCmd c a x s) s ∨
    (∃ ax p w, axisOf a = some ax ∧ s.block.app = some p ∧ x ≠ 0 ∧ settledValue c.val p.vendor ax x = some w ∧
      setCmd c a x s = emitSave (okay (zext32 w) (writeAxis p ax w s))) := by
  unfold setCmd
  rcases withAxis_cases a s _ with ⟨_, e⟩ | ⟨ax, ha, e⟩ <;> rw [e]
  · exact .inl (reads_raise (by decide) s)
  rcases withInstance_cases s _ with ⟨_, e⟩ | ⟨p, hp, e⟩ <;> rw [e]
  · exact .inl (reads_raise (by decide) s)
  by_cases hx : x = 0
  · rw [if_pos hx]
    exact .inl (reads_okay _ s)
  rw [if_neg hx]
  cases hw : settledValue c.val p.vendor ax x with
  | none => exact .inl (reads_raise (by decide) s)
  | some w => exact .inr ⟨ax, p, w, ha, hp, hx, hw, rfl⟩

/-- Everything `ENC` can do (R253). -/
theorem encCmd_cases (c : WfConfig) (s : State) :
    (s.block.app = none ∧ encCmd c s = raise .noinst s) ∨
    (∃ p, s.block.app = some p ∧ encodeFrames c.val p.vendor p.ax = none ∧ encCmd c s = raise .fatal s) ∨
    (∃ p fs, s.block.app = some p ∧ encodeFrames c.val p.vendor p.ax = some fs ∧
      encCmd c s = okay (countData fs.length) (latchFrames fs s)) := by
  unfold encCmd
  rcases withInstance_cases s _ with ⟨h, e⟩ | ⟨p, hp, e⟩ <;> rw [e]
  · exact .inl ⟨h, rfl⟩
  cases he : encodeFrames c.val p.vendor p.ax with
  | none => exact .inr (.inl ⟨p, hp, he, rfl⟩)
  | some fs => exact .inr (.inr ⟨p, fs, hp, he, rfl⟩)

/-- Everything `ASM` can do (R281). -/
theorem asmCmd_cases (c : WfConfig) (s : State) :
    (s.block.app = none ∧ asmCmd c s = raise .noinst s) ∨
    (∃ p, s.block.app = some p ∧ encodeFrames c.val p.vendor p.ax = none ∧ asmCmd c s = raise .fatal s) ∨
    (∃ p fs, s.block.app = some p ∧ encodeFrames c.val p.vendor p.ax = some fs ∧
      asmCmd c s = okay (countData (assemble c.val p.vendor fs).length)
        (latchWave fs (assemble c.val p.vendor fs) s)) := by
  unfold asmCmd
  rcases withInstance_cases s _ with ⟨h, e⟩ | ⟨p, hp, e⟩ <;> rw [e]
  · exact .inl ⟨h, rfl⟩
  cases he : encodeFrames c.val p.vendor p.ax with
  | none => exact .inr (.inl ⟨p, hp, he, rfl⟩)
  | some fs => exact .inr (.inr ⟨p, fs, hp, he, rfl⟩)

/-- Every state a command can leave. -/
theorem runCmd_cases (c : WfConfig) (i : Instr) (s : State) :
    Reads (runCmd c i s) s ∨
    (∃ v w, i = .init v ∧ vendorOf v = some w ∧
      runCmd c i s = okay 0 (construct (freshInstance c.val w) s)) ∨
    (∃ a x ax p w, i = .set a x ∧ axisOf a = some ax ∧ s.block.app = some p ∧ x ≠ 0 ∧
      settledValue c.val p.vendor ax x = some w ∧
      runCmd c i s = emitSave (okay (zext32 w) (writeAxis p ax w s))) ∨
    (∃ p, (i = .enc ∨ i = .asm) ∧ s.block.app = some p ∧ encodeFrames c.val p.vendor p.ax = none ∧
      runCmd c i s = raise .fatal s) ∨
    (∃ p fs, i = .enc ∧ s.block.app = some p ∧ encodeFrames c.val p.vendor p.ax = some fs ∧
      runCmd c i s = okay (countData fs.length) (latchFrames fs s)) ∨
    (∃ p fs, i = .asm ∧ s.block.app = some p ∧ encodeFrames c.val p.vendor p.ax = some fs ∧
      runCmd c i s = okay (countData (assemble c.val p.vendor fs).length)
        (latchWave fs (assemble c.val p.vendor fs) s)) := by
  cases i with
  | nop => exact .inl (reads_okay _ s)
  | init v =>
    rcases initCmd_cases c v s with ⟨_, e⟩ | ⟨w, hw, e⟩
    · exact .inl (by rw [runCmd, e]; exact reads_raise (by decide) s)
    · exact .inr (.inl ⟨v, w, rfl, hw, e⟩)
  | set a x =>
    rcases setCmd_cases c a x s with h | ⟨ax, p, w, ha, hp, hx, hw, e⟩
    · exact .inl h
    · exact .inr (.inr (.inl ⟨a, x, ax, p, w, rfl, ha, hp, hx, hw, e⟩))
  | get a => exact .inl (getCmd_reads a s)
  | capq a x => exact .inl (capqCmd_reads c a x s)
  | info n => exact .inl (infoCmd_reads c n s)
  | enc =>
    rcases encCmd_cases c s with ⟨_, e⟩ | ⟨p, hp, he, e⟩ | ⟨p, fs, hp, he, e⟩
    · exact .inl (by rw [runCmd, e]; exact reads_raise (by decide) s)
    · exact .inr (.inr (.inr (.inl ⟨p, .inl rfl, hp, he, e⟩)))
    · exact .inr (.inr (.inr (.inr (.inl ⟨p, fs, rfl, hp, he, e⟩))))
  | asm =>
    rcases asmCmd_cases c s with ⟨_, e⟩ | ⟨p, hp, he, e⟩ | ⟨p, fs, hp, he, e⟩
    · exact .inl (by rw [runCmd, e]; exact reads_raise (by decide) s)
    · exact .inr (.inr (.inr (.inl ⟨p, .inr rfl, hp, he, e⟩)))
    · exact .inr (.inr (.inr (.inr (.inr ⟨p, fs, rfl, hp, he, e⟩))))
  | flen f => exact .inl (flenCmd_reads f s)
  | rdbit f k => exact .inl (rdbitCmd_reads f k s)
  | wlen => exact .inl (wlenCmd_reads s)
  | rdpulse k => exact .inl (rdpulseCmd_reads k s)
  | engRev8 x => exact .inl (reads_okay _ s)
  | engCpl8 x => exact .inl (reads_okay _ s)
  | engCpl4 x => exact .inl (reads_okay _ s)
  | engNibp x => exact .inl (reads_okay _ s)
  | engAdd8 y x => exact .inl (reads_okay _ s)
  | engTlutd x => exact .inl (reads_okay _ s)
  | engTnibb x => exact .inl (reads_okay _ s)
  | engTcodea y x => exact .inl (reads_okay _ s)
  | engTfldb x => exact .inl (reads_okay _ s)

/-! ## Steps -/

/-- A step is `stepWith` at the machine's configuration; no step faults or is refused. -/
theorem step_eq_stepWith (s : State) : step s = .next (stepWith Config.given s) := by
  unfold step stepWith
  cases fetch s <;> first | rfl | exact exec_eq_runCmd _ _

/-- Everything a step can do: wait, take a reset, reject a word, run a command. -/
theorem step_cases (s : State) :
    (s.port.pending = [] ∧ step s = .next s) ∨
    (∃ rest, s.port.pending = .reset :: rest ∧
      step s = .next (takeReset { s with port := { s.port with pending := rest } })) ∨
    (∃ w rest e, s.port.pending = .command w :: rest ∧ decode w = .error e ∧
      step s = .next (takeIllegal { s with port := { s.port with pending := rest } })) ∨
    (∃ w rest i, s.port.pending = .command w :: rest ∧ decode w = .ok i ∧
      step s = .next (runCmd Config.given i { s with port := { s.port with pending := rest } })) := by
  rcases fetch_cases s with ⟨h, e⟩ | ⟨rest, h, e⟩ | ⟨w, rest, x, h, hd, e⟩ | ⟨w, rest, i, h, hd, e⟩
  · exact .inl ⟨h, by rw [step, e]⟩
  · exact .inr (.inl ⟨rest, h, by rw [step, e]⟩)
  · exact .inr (.inr (.inl ⟨w, rest, x, h, hd, by rw [step, e]⟩))
  · exact .inr (.inr (.inr ⟨w, rest, i, h, hd, by rw [step, e]; exact exec_eq_runCmd i _⟩))

end Sys2Proof.Machine
end

