-- ==== Sys2Proof/Laws/Engines.lean ====
section
/-! SUPPORT. What each engine of spec `41_engines.md` computes, said once. -/

namespace Sys2Proof.Machine

/-! ## Reversal and packing -/

/-- Bit `i` of `REV8(x)` is bit `7-i` of `x` (R140). -/
theorem getLsbD_rev8 (x : Byte) (i : Nat) (h : i < 8) : (rev8 x).getLsbD i = x.getLsbD (7 - i) := by
  revert x; interval_cases i <;> decide +kernel

@[simp] theorem rev8_rev8 (x : Byte) : rev8 (rev8 x) = x := by revert x; decide +kernel

theorem byteBits_rev8 (x : Byte) : byteBits (rev8 x) = (byteBits x).reverse := by
  revert x; decide +kernel

@[simp] theorem byteBits_length (b : Byte) : (byteBits b).length = 8 := rfl

theorem byteBits_getElem? (b : Byte) (k : Nat) (h : k < 8) :
    (byteBits b)[k]? = some (b.getLsbD (7 - k)) := by
  revert b; interval_cases k <;> decide +kernel

@[simp] theorem pack_nil : pack [] = [] := rfl
@[simp] theorem pack_cons (b : Byte) (bs : List Byte) : pack (b :: bs) = byteBits b ++ pack bs := rfl
@[simp] theorem pack_append (as bs : List Byte) : pack (as ++ bs) = pack as ++ pack bs := by
  simp [pack]

@[simp] theorem pack_length (bs : List Byte) : (pack bs).length = 8 * bs.length := by
  induction bs with
  | nil => rfl
  | cons b bs ih => simp only [pack_cons, List.length_append, byteBits_length, ih, List.length_cons]; omega

/-! ## Checksum arithmetic -/

@[simp] theorem sum8_nil : sum8 [] = 0 := rfl

theorem sum8_append_singleton (bs : List Byte) (b : Byte) : sum8 (bs ++ [b]) = add8 (sum8 bs) b := by
  simp [sum8]

theorem foldl_add8 (bs : List Byte) (x : Byte) : bs.foldl add8 x = x + sum8 bs := by
  induction bs generalizing x with
  | nil => simp
  | cons b bs ih =>
    simp only [sum8, List.foldl_cons, add8] at *
    rw [ih, ih (0 + b)]
    simp [BitVec.add_assoc]

@[simp] theorem sum8_cons (b : Byte) (bs : List Byte) : sum8 (b :: bs) = b + sum8 bs := by
  simp [sum8, List.foldl_cons, add8]
  exact foldl_add8 bs b

@[simp] theorem sum8_append (as bs : List Byte) : sum8 (as ++ bs) = sum8 as + sum8 bs := by
  induction as with
  | nil => simp
  | cons a as ih => simp [ih, BitVec.add_assoc]

/-- The representation check passes every byte (R149). -/
@[simp] theorem ckRep_toNat (b : Byte) : ckRep b.toNat = some b := by
  have := b.isLt
  simp only [ckRep]
  rw [if_neg (by omega)]
  simp

theorem sum2_eq_none {x y : Byte} : sum2 x y = none ↔ 255 < x.toNat + y.toNat := by
  unfold sum2; split <;> simp_all

theorem sum2_eq_some {x y z : Byte} : sum2 x y = some z ↔ z.toNat = x.toNat + y.toNat := by
  have := z.isLt
  unfold sum2
  split
  · simp; omega
  · constructor
    · intro h
      cases h
      simp; omega
    · intro h
      rw [← h]; simp

end Sys2Proof.Machine
end

