-- ==== Sys2Proof/Laws/Encoders.lean ====
section
/-! SUPPORT. The four encoders without their dead checks, and the length of every frame. -/

namespace Sys2Proof.Machine

variable (c : Config) (S : Axes)

/-! ## Vendor A -/

@[simp] theorem aHeader_length (k : Fin 2) : (aHeader c k).length = 3 := by simp [aHeader]
@[simp] theorem aPayload_length (k : Fin 2) : (aPayload c k S).length = 16 := by simp [aPayload]

/-- The logical bytes of a vendor A block; the representation check is dead (R149, R176). -/
theorem aLogical_eq (k : Fin 2) :
    aLogical c k S = some (aHeader c k ++ aPayload c k S ++ [aSum c k S]) := by
  simp [aLogical]

/-- The transmitted frame of a vendor A block (R177). -/
theorem aFrame_eq (k : Fin 2) :
    aFrame c k S = some (pack ((aHeader c k ++ aPayload c k S ++ [aSum c k S]).map rev8)) := by
  simp [aFrame, aLogical_eq]

/-- `encode_A` is total (R179). -/
theorem encodeA_eq :
    encodeA c S = some
      [pack ((aHeader c 0 ++ aPayload c 0 S ++ [aSum c 0 S]).map rev8),
       pack ((aHeader c 1 ++ aPayload c 1 S ++ [aSum c 1 S]).map rev8)] := by
  simp [encodeA, aFrame_eq]

/-! ## Vendor B -/

@[simp] theorem bLogical_length : (bLogical c S).length = 2 * c.bNp := by
  simp [bLogical]; omega

@[simp] theorem bTransmitted_length : (bTransmitted c S).length = 2 * c.bNp := by
  unfold bTransmitted; split <;> simp

/-! ## Vendor C -/

/-- What the body of vendor C can be (R212). -/
theorem cBytes_eq_some {body : List Byte} (h : cBytes c S = some body) :
    ∃ fan ext, sum2 (c.cFan1 S) (c.cFan2 S) = some fan ∧ sum2 (c.cExt1 S) (c.cExt2 S) = some ext ∧
      body = List.ofFn fun j => cBody c fan ext j S := by
  unfold cBytes at h
  cases hf : sum2 (c.cFan1 S) (c.cFan2 S) with
  | none => simp [hf] at h
  | some fan =>
    cases he : sum2 (c.cExt1 S) (c.cExt2 S) with
    | none => simp [hf, he] at h
    | some ext => exact ⟨fan, ext, rfl, rfl, by simpa [hf, he] using h.symm⟩

theorem cBytes_length {body : List Byte} (h : cBytes c S = some body) : body.length = 18 := by
  obtain ⟨_, _, _, _, rfl⟩ := cBytes_eq_some c S h
  simp

/-- `encode_C` on the body bytes; the representation check is dead (R149, R217). -/
theorem encodeC_eq :
    encodeC c S = (cBytes c S).map fun body => [pack (body.map rev8 ++ [cSum c body])] := by
  unfold encodeC cTransmitted
  cases cBytes c S <;> simp

/-! ## Vendor D -/

@[simp] theorem dMain_length : (dMain c S).length = c.dNb := by simp [dMain]
@[simp] theorem dFooter_length : (dFooter c S).length = 6 := by simp [dFooter]

/-! ## Every vendor -/

/-- What an encoding that does not abort produces has the lengths R251 gives. -/
theorem encodeFrames_lengths {v : Vendor} {fs : List Frame} (h : encodeFrames c v S = some fs) :
    fs.map List.length = (List.range (Config.nfr v)).map (c.frameLen v) := by
  cases v with
  | A =>
    simp only [encodeFrames, encodeA_eq, Option.some.injEq] at h
    subst h
    simp [Config.nfr, Config.frameLen, List.range_succ]
  | B =>
    simp only [encodeFrames, encodeB, Option.some.injEq] at h
    subst h
    simp [Config.nfr, Config.frameLen]
    omega
  | C =>
    simp only [encodeFrames, encodeC_eq, Option.map_eq_some_iff] at h
    obtain ⟨body, hb, rfl⟩ := h
    simp [Config.nfr, Config.frameLen, cBytes_length c S hb]
  | D =>
    simp only [encodeFrames, encodeD, Option.some.injEq] at h
    subst h
    simp [Config.nfr, Config.frameLen, List.range_succ]

/-- Only vendor C can abort (R303). -/
theorem encodeFrames_eq_none {v : Vendor} (h : encodeFrames c v S = none) : v = .C := by
  cases v <;> simp_all [encodeFrames, encodeA_eq, encodeB, encodeD]

end Sys2Proof.Machine
end

