-- ==== Sys2Proof/Laws/Fields.lean ====
section
/-! SUPPORT. The fields of a word made of given fields, and the word made of the fields of a word (R80). -/

namespace Sys2Proof

/-- Bit `i` of a word stands in the field R80 gives it. -/
theorem getLsbD_mkWord (op a : BitVec 4) (hi lo : Byte) (i : Nat) :
    (mkWord op a hi lo).getLsbD i =
      if i < 8 then lo.getLsbD i else if i < 16 then hi.getLsbD (i - 8) else
      if i < 24 then false else if i < 28 then a.getLsbD (i - 24) else op.getLsbD (i - 28) := by
  have h : (mkWord op a hi lo).getLsbD i =
      BitVec.getLsbD (w := 4 + 4 + 8 + 8 + 8) (op ++ a ++ 0#8 ++ hi ++ lo) i := rfl
  rw [h]
  simp only [BitVec.getLsbD_append]
  split
  · rfl
  · by_cases h1 : i - 8 < 8
    · simp [h1, show i < 16 by omega]
    · by_cases h2 : i - 8 - 8 < 8
      · simp [h1, h2, show ¬ i < 16 by omega, show i < 24 by omega]
      · by_cases h3 : i - 8 - 8 - 8 < 4
        · simp only [h1, h2, h3, show ¬ i < 16 by omega, show ¬ i < 24 by omega, show i < 28 by omega,
            if_true, if_false]
          rw [show i - 8 - 8 - 8 = i - 24 by omega]
        · simp [h1, h2, h3, show ¬ i < 16 by omega, show ¬ i < 24 by omega, show ¬ i < 28 by omega,
            show i - 8 - 8 - 8 - 4 = i - 28 by omega]

theorem toNat_append_mul_add {m n : Nat} (x : BitVec m) (y : BitVec n) :
    (x ++ y).toNat = x.toNat * 2 ^ n + y.toNat := by
  rw [BitVec.toNat_append, Nat.shiftLeft_eq, Nat.mul_comm, ← Nat.two_pow_add_eq_or_of_lt y.isLt]

/-- The word of given fields as a number (R80). -/
theorem toNat_mkWord (op a : BitVec 4) (hi lo : Byte) :
    (mkWord op a hi lo).toNat =
      op.toNat * 2 ^ 28 + a.toNat * 2 ^ 24 + hi.toNat * 2 ^ 8 + lo.toNat := by
  have h : (mkWord op a hi lo).toNat =
      BitVec.toNat (w := 4 + 4 + 8 + 8 + 8) (op ++ a ++ 0#8 ++ hi ++ lo) := rfl
  rw [h]
  simp only [toNat_append_mul_add, BitVec.toNat_ofNat]
  omega

@[simp] theorem opField_mkWord (op a : BitVec 4) (hi lo : Byte) : opField (mkWord op a hi lo) = op := by
  apply BitVec.eq_of_getLsbD_eq
  intro i h
  simp [opField, getLsbD_mkWord, h, show ¬ 28 + i < 8 by omega, show ¬ 28 + i < 16 by omega,
    show ¬ 28 + i < 24 by omega]

@[simp] theorem aField_mkWord (op a : BitVec 4) (hi lo : Byte) : aField (mkWord op a hi lo) = a := by
  apply BitVec.eq_of_getLsbD_eq
  intro i h
  simp [aField, getLsbD_mkWord, h, show ¬ 24 + i < 8 by omega, show ¬ 24 + i < 16 by omega,
    show 24 + i < 28 by omega]

@[simp] theorem zField_mkWord (op a : BitVec 4) (hi lo : Byte) : zField (mkWord op a hi lo) = 0 := by
  apply BitVec.eq_of_getLsbD_eq
  intro i h
  simp [zField, getLsbD_mkWord, h, show ¬ 16 + i < 8 by omega, show ¬ 16 + i < 16 by omega,
    show 16 + i < 24 by omega]

@[simp] theorem hiField_mkWord (op a : BitVec 4) (hi lo : Byte) : hiField (mkWord op a hi lo) = hi := by
  apply BitVec.eq_of_getLsbD_eq
  intro i h
  simp [hiField, getLsbD_mkWord, h, show ¬ 8 + i < 8 by omega, show 8 + i < 16 by omega]

@[simp] theorem loField_mkWord (op a : BitVec 4) (hi lo : Byte) : loField (mkWord op a hi lo) = lo := by
  apply BitVec.eq_of_getLsbD_eq
  intro i h
  simp [loField, getLsbD_mkWord, h]

/-- A word whose `z` is 0 is the word made of its other fields. -/
theorem mkWord_fields (w : Word) (h : zField w = 0) :
    mkWord (opField w) (aField w) (hiField w) (loField w) = w := by
  apply BitVec.eq_of_getLsbD_eq
  intro i hi
  have hz : (zField w).getLsbD (i - 16) = false := by simp [h]
  simp only [zField, getLsbD_mkWord, opField, aField, hiField, loField, BitVec.getLsbD_extractLsb'] at hz ⊢
  split
  · next h8 => simp [h8]
  split
  · simp [show i - 8 < 8 by omega, show 8 + (i - 8) = i by omega]
  split
  · rw [show 16 + (i - 16) = i by omega] at hz
    simpa [show i - 16 < 8 by omega] using hz.symm
  split
  · simp [show i - 24 < 4 by omega, show 24 + (i - 24) = i by omega]
  · simp [show i - 28 < 4 by omega, show 28 + (i - 28) = i by omega]

/-- Decoding looks at the fields of a word, and at nothing else (R95). -/
theorem decode_mkWord (op a : BitVec 4) (hi lo : Byte) :
    decode (mkWord op a hi lo) = decodeFields op a hi lo := by
  simp [decode]

end Sys2Proof
end

