-- ==== Sys2Proof/Laws/Memory.lean ====
section
/-! SUPPORT. The output memories keep their form `Memory.wf` under every operation (R36 to R39). -/

namespace Sys2Proof.Machine

theorem memory_wf_iff (c : Config) (b : Block) :
    Memory.wf c b = true ↔
      (∀ fs, b.frames = some fs → fs.length ≤ 2 ∧ ∀ f ∈ fs, f.length ≤ c.frameMaxBits) ∧
      (∀ w, b.wave = some w → w.length ≤ c.pulseMax) := by
  cases hf : b.frames <;> cases hw : b.wave <;> simp [Memory.wf, hf, hw, List.all_eq_true]

theorem memory_wf_reset (c : Config) : Memory.wf c State.reset.block = true := rfl

/-! ## The lengths that fit -/

theorem nfr_le_two (v : Vendor) : Config.nfr v ≤ 2 := by cases v <;> decide

theorem frameLen_fits {c : Config} (hc : c.WF) (v : Vendor) (f : Nat) :
    c.frameLen v f ≤ c.frameMaxBits := by
  obtain ⟨h1, h2, h3, h4, h5, _⟩ := hc.frame_fits
  cases v <;> simp only [Config.frameLen] <;> try assumption
  split <;> assumption

/-- The frames of an encoding fit the frame buffer (R37). -/
theorem encodeFrames_fits {c : Config} (hc : c.WF) {v : Vendor} {S : Axes} {fs : List Frame}
    (h : encodeFrames c v S = some fs) :
    fs.length ≤ 2 ∧ ∀ f ∈ fs, f.length ≤ c.frameMaxBits := by
  have hl := encodeFrames_lengths c S h
  constructor
  · have := congrArg List.length hl
    simp only [List.length_map, List.length_range] at this
    exact this ▸ nfr_le_two v
  · intro f hf
    have : f.length ∈ fs.map List.length := List.mem_map_of_mem hf
    rw [hl] at this
    obtain ⟨k, _, hk⟩ := List.mem_map.mp this
    exact hk ▸ frameLen_fits hc v k

/-- The frame numbers of the `DATA` segments are frames of the vendor (R272). -/
theorem data_lt_nfr {c : Config} (hc : c.WF) {v : Vendor} {f : Nat} (h : .data f ∈ c.segs v) :
    f < Config.nfr v := by
  have hm : f ∈ Config.dataOrder (c.segs v) := by
    simp only [Config.dataOrder, List.mem_filterMap]
    exact ⟨_, h, rfl⟩
  have ho := hc.data_order v
  cases v with
  | A =>
    rw [show Config.dataOrder (c.segs .A) = [0, 1] from ho] at hm
    simp only [List.mem_cons, List.not_mem_nil, or_false] at hm
    rcases hm with rfl | rfl <;> decide
  | B => exact (ho.2 f hm) ▸ (by decide)
  | C => exact (ho.2 f hm) ▸ (by decide)
  | D =>
    rw [show Config.dataOrder (c.segs .D) = [0, 0, 1] from ho] at hm
    simp only [List.mem_cons, List.not_mem_nil, or_false] at hm
    rcases hm with rfl | rfl | rfl <;> decide

/-- The length of frame `f` of an encoding is the constant of R251. -/
theorem encodeFrames_getD_length {c : Config} {v : Vendor} {S : Axes} {fs : List Frame}
    (h : encodeFrames c v S = some fs) {f : Nat} (hf : f < Config.nfr v) :
    (fs.getD f []).length = c.frameLen v f := by
  have hl := congrArg (fun l => l[f]?) (encodeFrames_lengths c S h)
  simp only [List.getElem?_map, List.getElem?_range hf, Option.map_some] at hl
  rw [List.getD_eq_getElem?_getD]
  cases hk : fs[f]? with
  | none => simp [hk] at hl
  | some fr => simpa [hk] using hl

/-- The wave of an encoding has `wavelen(v)` entries (R277). -/
theorem assemble_encodeFrames_length {c : Config} (hc : c.WF) {v : Vendor} {S : Axes} {fs : List Frame}
    (h : encodeFrames c v S = some fs) : (assemble c v fs).length = c.wavelen v := by
  rw [assemble_length, Config.wavelen]
  congr 1
  apply List.map_congr_left
  intro g hg
  cases g with
  | lit ds => rfl
  | data f =>
    simp only [segWave_data, expandFrame_length, Config.segLen]
    rw [encodeFrames_getD_length h (data_lt_nfr hc hg)]

/-! ## The operations -/

section
variable {c : Config}

theorem memory_wf_respond {k : RespCode} {d : Word} {s : State} (h : Memory.wf c s.block = true) :
    Memory.wf c (respond k d s).block = true := h
theorem memory_wf_okay {d : Word} {s : State} (h : Memory.wf c s.block = true) :
    Memory.wf c (okay d s).block = true := h
theorem memory_wf_clearValid (b : Block) : Memory.wf c (clearValid b) = true := rfl
theorem memory_wf_raise {e : Err} {s : State} (h : Memory.wf c s.block = true) :
    Memory.wf c (raise e s).block = true := by
  cases e <;> first | exact h | rfl
theorem memory_wf_emitSave {s : State} (h : Memory.wf c s.block = true) :
    Memory.wf c (emitSave s).block = true := h
theorem memory_wf_writeAxis (p : Appliance) (a : Axis) (w : Byte) (s : State) :
    Memory.wf c (writeAxis p a w s).block = true := rfl
theorem memory_wf_construct (p : Appliance) (s : State) :
    Memory.wf c (construct p s).block = true := rfl
theorem memory_wf_takeReset (s : State) : Memory.wf c (takeReset s).block = true := rfl
theorem memory_wf_placeCommand {s : State} (w : Word) (h : Memory.wf c s.block = true) :
    Memory.wf c (placeCommand s w).block = true := h

theorem memory_wf_latchFrames (hc : c.WF) {v : Vendor} {S : Axes} {fs : List Frame} {s : State}
    (he : encodeFrames c v S = some fs) (h : Memory.wf c s.block = true) :
    Memory.wf c (latchFrames fs s).block = true := by
  rw [memory_wf_iff] at h ⊢
  refine ⟨fun fs' h' => ?_, h.2⟩
  simp only [latchFrames_frames, Option.some.injEq] at h'
  exact h' ▸ encodeFrames_fits hc he

theorem memory_wf_latchWave (hc : c.WF) {v : Vendor} {S : Axes} {fs : List Frame} (s : State)
    (he : encodeFrames c v S = some fs) :
    Memory.wf c (latchWave fs (assemble c v fs) s).block = true := by
  rw [memory_wf_iff]
  refine ⟨fun fs' h' => ?_, fun w hw => ?_⟩
  · simp only [latchWave_frames, Option.some.injEq] at h'
    exact h' ▸ encodeFrames_fits hc he
  · simp only [latchWave_wave, Option.some.injEq] at hw
    rw [← hw, assemble_encodeFrames_length hc he]
    exact hc.wave_fits.1 v

end

end Sys2Proof.Machine
end

