-- ==== Sys2Proof/Laws/PerInstr.lean ====
section
/-! SUPPORT. The per-instruction family `TableRow`: the word `encode` writes for a command matches that
command's row of `spec/opcode_table.json`, with every operand at every value. -/

namespace Sys2Proof.Laws.TableRow

/-- The `match` and `mask` of the row of `spec/opcode_table.json` a command stands in. -/
def row : Instr → Word × Word
  | .nop => (0x00000000, 0xFFFFFFFF)
  | .init _ => (0x10000000, 0xFFFFFF00)
  | .set _ _ => (0x20000000, 0xF0FFFF00)
  | .get _ => (0x30000000, 0xF0FFFFFF)
  | .capq _ _ => (0x40000000, 0xF0FFFF00)
  | .info _ => (0x50000000, 0xF0FFFFFF)
  | .enc => (0x60000000, 0xFFFFFFFF)
  | .asm => (0x70000000, 0xFFFFFFFF)
  | .flen _ => (0x80000000, 0xFEFFFFFF)
  | .rdbit _ _ => (0x90000000, 0xFEFF0000)
  | .wlen => (0xA0000000, 0xFFFFFFFF)
  | .rdpulse _ => (0xB0000000, 0xFFFF0000)
  | .engRev8 _ => (0xC0000000, 0xFFFFFF00)
  | .engCpl8 _ => (0xC1000000, 0xFFFFFF00)
  | .engCpl4 _ => (0xC2000000, 0xFFFFFFF0)
  | .engNibp _ => (0xC3000000, 0xFFFFFFF0)
  | .engAdd8 _ _ => (0xC4000000, 0xFFFF0000)
  | .engTlutd _ => (0xC5000000, 0xFFFFFF00)
  | .engTnibb _ => (0xC6000000, 0xFFFFFF00)
  | .engTcodea _ _ => (0xC7000000, 0xFFFF0000)
  | .engTfldb _ => (0xC8000000, 0xFFFFFF00)

/-- The word of the command matches its row. -/
def Statement (i : Instr) : Prop := encode i &&& (row i).2 = (row i).1


theorem nop : Statement .nop := by
  unfold Statement; decide

theorem init (v : Byte) : Statement (.init v) := by
  unfold Statement
  apply BitVec.eq_of_getLsbD_eq
  intro i hi
  simp only [row, encode, BitVec.getLsbD_and, getLsbD_mkWord]
  interval_cases i <;> simp

theorem set (a : BitVec 4) (x : Byte) : Statement (.set a x) := by
  unfold Statement
  apply BitVec.eq_of_getLsbD_eq
  intro i hi
  simp only [row, encode, BitVec.getLsbD_and, getLsbD_mkWord]
  interval_cases i <;> simp

theorem get (a : BitVec 4) : Statement (.get a) := by
  unfold Statement
  apply BitVec.eq_of_getLsbD_eq
  intro i hi
  simp only [row, encode, BitVec.getLsbD_and, getLsbD_mkWord]
  interval_cases i <;> simp

theorem capq (a : BitVec 4) (c : Byte) : Statement (.capq a c) := by
  unfold Statement
  apply BitVec.eq_of_getLsbD_eq
  intro i hi
  simp only [row, encode, BitVec.getLsbD_and, getLsbD_mkWord]
  interval_cases i <;> simp

theorem info (n : BitVec 4) : Statement (.info n) := by
  unfold Statement
  apply BitVec.eq_of_getLsbD_eq
  intro i hi
  simp only [row, encode, BitVec.getLsbD_and, getLsbD_mkWord]
  interval_cases i <;> simp

theorem enc : Statement .enc := by
  unfold Statement; decide

theorem asm : Statement .asm := by
  unfold Statement; decide

theorem flen (f : BitVec 1) : Statement (.flen f) := by
  unfold Statement
  apply BitVec.eq_of_getLsbD_eq
  intro i hi
  simp only [row, encode, BitVec.getLsbD_and, getLsbD_mkWord]
  interval_cases i <;> simp

theorem rdbit (f : BitVec 1) (k : BitVec 16) : Statement (.rdbit f k) := by
  unfold Statement
  apply BitVec.eq_of_getLsbD_eq
  intro i hi
  simp only [row, encode, BitVec.getLsbD_and, getLsbD_mkWord]
  interval_cases i <;> simp

theorem wlen : Statement .wlen := by
  unfold Statement; decide

theorem rdpulse (k : BitVec 16) : Statement (.rdpulse k) := by
  unfold Statement
  apply BitVec.eq_of_getLsbD_eq
  intro i hi
  simp only [row, encode, BitVec.getLsbD_and, getLsbD_mkWord]
  interval_cases i <;> simp

theorem engRev8 (x : Byte) : Statement (.engRev8 x) := by
  unfold Statement
  apply BitVec.eq_of_getLsbD_eq
  intro i hi
  simp only [row, encode, BitVec.getLsbD_and, getLsbD_mkWord]
  interval_cases i <;> simp

theorem engCpl8 (x : Byte) : Statement (.engCpl8 x) := by
  unfold Statement
  apply BitVec.eq_of_getLsbD_eq
  intro i hi
  simp only [row, encode, BitVec.getLsbD_and, getLsbD_mkWord]
  interval_cases i <;> simp

theorem engCpl4 (x : Nib) : Statement (.engCpl4 x) := by
  unfold Statement
  apply BitVec.eq_of_getLsbD_eq
  intro i hi
  simp only [row, encode, BitVec.getLsbD_and, getLsbD_mkWord]
  interval_cases i <;> simp

theorem engNibp (x : Nib) : Statement (.engNibp x) := by
  unfold Statement
  apply BitVec.eq_of_getLsbD_eq
  intro i hi
  simp only [row, encode, BitVec.getLsbD_and, getLsbD_mkWord]
  interval_cases i <;> simp

theorem engAdd8 (y : Byte) (x : Byte) : Statement (.engAdd8 y x) := by
  unfold Statement
  apply BitVec.eq_of_getLsbD_eq
  intro i hi
  simp only [row, encode, BitVec.getLsbD_and, getLsbD_mkWord]
  interval_cases i <;> simp

theorem engTlutd (x : Byte) : Statement (.engTlutd x) := by
  unfold Statement
  apply BitVec.eq_of_getLsbD_eq
  intro i hi
  simp only [row, encode, BitVec.getLsbD_and, getLsbD_mkWord]
  interval_cases i <;> simp

theorem engTnibb (x : Byte) : Statement (.engTnibb x) := by
  unfold Statement
  apply BitVec.eq_of_getLsbD_eq
  intro i hi
  simp only [row, encode, BitVec.getLsbD_and, getLsbD_mkWord]
  interval_cases i <;> simp

theorem engTcodea (y : Byte) (x : Byte) : Statement (.engTcodea y x) := by
  unfold Statement
  apply BitVec.eq_of_getLsbD_eq
  intro i hi
  simp only [row, encode, BitVec.getLsbD_and, getLsbD_mkWord]
  interval_cases i <;> simp

theorem engTfldb (x : Byte) : Statement (.engTfldb x) := by
  unfold Statement
  apply BitVec.eq_of_getLsbD_eq
  intro i hi
  simp only [row, encode, BitVec.getLsbD_and, getLsbD_mkWord]
  interval_cases i <;> simp

end Sys2Proof.Laws.TableRow
end

