-- ==== Sys2Proof/Tests/Slice0.lean ====
section
/-! SUPPORT. Tests of one step or one function each, with the expected results of `95_test_vectors.md` (its
vector ids are in the comments) or worked by hand from the rule named; then, for every obligation with
hypotheses, a theorem with a concrete state and operands that meet them. -/

namespace Sys2Proof.Tests

-- One theorem at a time: together the kernel checks of this file would each hold a thread.
set_option Elab.async false

open Sys2Proof Sys2Proof.Machine

/-! ## Helpers -/

/-- The axis registers in the order of their numbers, as the vectors write them. -/
def axes (power mode temp fanV fanH fanSpeed highPower longFan roomClean area : Byte) : Axes :=
  { power, mode, temp, fanV, fanH, fanSpeed, highPower, longFan, roomClean, area }

/-- An instance of vendor `v` with axes `S`, both buffers invalid. -/
def held (v : Vendor) (S : Axes) : State :=
  { State.reset with block := { Block.reset with app := some { vendor := v, ax := S } } }

/-- The state of V-A1, V-B1, V-C1: ON, COOL, 21, the rest at the sentinel. -/
def cool21 : Axes := axes 1 3 21 0 0 0 0 0 0 0

/-- `held v S` with the frames of its own encoding in the frame buffer. -/
def framed (v : Vendor) (S : Axes) (fs : List Frame) : State :=
  { State.reset with block := { (held v S).block with frames := some fs } }

/-- `s` with one input pending. -/
def given (s : State) (x : Input) : State := { s with port := { s.port with pending := [x] } }

/-- TESTCFG-F: TESTCFG with one change. -/
def testCfgF : Config :=
  { Config.testCfg with cFan1 := fun S => if S.fanSpeed = 5 then 0xF8 else Config.testCfg.cFan1 S }

/-- TESTCFG, well-formed. -/
def testWf : WfConfig := { val := Config.testCfg, wf := Config.testCfg_wf }

/-- TESTCFG-F, well-formed: no constraint reads `C_FAN1`. -/
def testWfF : WfConfig where
  val := testCfgF
  wf :=
    { Config.testCfg_wf with
      b_tmark := fun S h => Config.testCfg_wf.b_tmark S ⟨h.dom, h.minTemp, h.maxTemp⟩ }

/-- The response of a command under TESTCFG. -/
def answer (i : Instr) (s : State) : Option Response := (runCmd testWf i s).port.resp

/-- `(OKAY, d)`. -/
def ok (d : Word) : Option Response := some { code := .okay, data := d }

/-- `(e, 0)`. -/
def err (e : Err) : Option Response := some { code := .err e, data := 0 }

/-! ## WellFormed: an ill-formed term for each check -/

theorem test_set_axis10_refused : (Instr.set 10 1).wellFormed = false := by decide
theorem test_get_axis10_refused : (Instr.get 10).wellFormed = false := by decide
theorem test_capq_axis15_refused : (Instr.capq 15 0).wellFormed = false := by decide
theorem test_info_selector6_refused : (Instr.info 6).wellFormed = false := by decide

/-! ## Decode: one word of each constructor, written from its pattern in R87 or R89 -/

-- 0000 0000 00000000 0000000000000000
theorem test_decode_nop : decode 0b00000000000000000000000000000000 = .ok .nop := by decide
-- 0001 0000 00000000 00000000vvvvvvvv, v = 00000011
theorem test_decode_init : decode 0b00010000000000000000000000000011 = .ok (.init 3) := by decide
-- 0010 aaaa 00000000 00000000vvvvvvvv, a = 0010, v = 00010101
theorem test_decode_set : decode 0b00100010000000000000000000010101 = .ok (.set 2 21) := by decide
-- 0011 aaaa 00000000 0000000000000000, a = 1001
theorem test_decode_get : decode 0b00111001000000000000000000000000 = .ok (.get 9) := by decide
-- 0100 aaaa 00000000 00000000cccccccc, a = 0001, c = 00000011
theorem test_decode_capq : decode 0b01000001000000000000000000000011 = .ok (.capq 1 3) := by decide
-- 0101 ssss 00000000 0000000000000000, s = 0101
theorem test_decode_info : decode 0b01010101000000000000000000000000 = .ok (.info 5) := by decide
-- 0110 0000 00000000 0000000000000000
theorem test_decode_enc : decode 0b01100000000000000000000000000000 = .ok .enc := by decide
-- 0111 0000 00000000 0000000000000000
theorem test_decode_asm : decode 0b01110000000000000000000000000000 = .ok .asm := by decide
-- 1000 000f 00000000 0000000000000000, f = 1
theorem test_decode_flen : decode 0b10000001000000000000000000000000 = .ok (.flen 1) := by decide
-- 1001 000f 00000000 iiiiiiiiiiiiiiii, f = 1, i = 0000000010011111
theorem test_decode_rdbit : decode 0b10010001000000000000000010011111 = .ok (.rdbit 1 159) := by decide
-- 1010 0000 00000000 0000000000000000
theorem test_decode_wlen : decode 0b10100000000000000000000000000000 = .ok .wlen := by decide
-- 1011 0000 00000000 iiiiiiiiiiiiiiii, i = 0000000100101010
theorem test_decode_rdpulse : decode 0b10110000000000000000000100101010 = .ok (.rdpulse 298) := by decide
-- 1100 0000 00000000 00000000xxxxxxxx, x = 00111001
theorem test_decode_rev8 : decode 0b11000000000000000000000000111001 = .ok (.engRev8 0x39) := by decide
-- 1100 0001 00000000 00000000xxxxxxxx, x = 00111001
theorem test_decode_cpl8 : decode 0b11000001000000000000000000111001 = .ok (.engCpl8 0x39) := by decide
-- 1100 0010 00000000 000000000000xxxx, x = 1011
theorem test_decode_cpl4 : decode 0b11000010000000000000000000001011 = .ok (.engCpl4 0xB) := by decide
-- 1100 0011 00000000 000000000000xxxx, x = 1011
theorem test_decode_nibp : decode 0b11000011000000000000000000001011 = .ok (.engNibp 0xB) := by decide
-- 1100 0100 00000000 yyyyyyyyxxxxxxxx, y = 00111001, x = 00101010
theorem test_decode_add8 : decode 0b11000100000000000011100100101010 = .ok (.engAdd8 0x39 0x2A) := by decide
-- 1100 0101 00000000 00000000xxxxxxxx, x = 00010101
theorem test_decode_tlutd : decode 0b11000101000000000000000000010101 = .ok (.engTlutd 21) := by decide
-- 1100 0110 00000000 00000000xxxxxxxx, x = 00010101
theorem test_decode_tnibb : decode 0b11000110000000000000000000010101 = .ok (.engTnibb 21) := by decide
-- 1100 0111 00000000 yyyyyyyyxxxxxxxx, y = 00000011, x = 11001000
theorem test_decode_tcodea : decode 0b11000111000000000000001111001000 = .ok (.engTcodea 3 200) := by decide
-- 1100 1000 00000000 00000000xxxxxxxx, x = 00100000
theorem test_decode_tfldb : decode 0b11001000000000000000000000100000 = .ok (.engTfldb 32) := by decide

-- V-I2 to V-I8: the words of R93, with the clause that rejects each.
theorem test_illegal_z : decode 0x00010000 = .error .zField := by decide
theorem test_illegal_unused_a : decode 0x01000000 = .error .unusedField := by decide
theorem test_illegal_unused_lo : decode 0x00000001 = .error .unusedField := by decide
theorem test_illegal_opcodes :
    decode 0xD0000000 = .error .reservedOpcode ∧ decode 0xE0000000 = .error .reservedOpcode ∧
    decode 0xFF00FFFF = .error .reservedOpcode := by decide
theorem test_illegal_axes :
    decode 0x3A000000 = .error .noSuchAxis ∧ decode 0x2F000001 = .error .noSuchAxis ∧
    decode 0x4A000000 = .error .noSuchAxis := by decide
theorem test_illegal_selector : decode 0x56000000 = .error .noSuchSelector := by decide
theorem test_illegal_frames :
    decode 0x82000000 = .error .noSuchFrame ∧ decode 0x92000000 = .error .noSuchFrame := by decide
theorem test_illegal_eng :
    decode 0xC9000000 = .error .reservedSubOpcode ∧ decode 0xC200001B = .error .unusedField ∧
    decode 0xC0000101 = .error .unusedField := by decide
theorem test_illegal_init_hi : decode 0x10000100 = .error .unusedField := by decide

/-! ## Fetch -/

-- V-I1, V-I9, V-I12: one step from reset on a word the host gives.
theorem test_table_word : decodeTableWord 32 0x3C000000 = none ∧ decodeTableWord 32 0x39000000 = some (.get 9) := by
  decide
theorem test_fetch_nop : step (State.reset.withFetchWord 32 0) =
    .next { State.reset with port := { State.reset.port with resp := ok 0 } } := rfl
theorem test_illegal_before_noinst : (stepWith testWf (given State.reset (.command 0x2C000009))).port.resp =
    err .illegal := by decide
theorem test_fetch_eng : (stepWith testWf (State.reset.withFetchWord 32 0xC0000039)).port.resp =
    ok 0x9C := by decide
theorem test_idle : stepWith testWf State.reset = State.reset := by decide
theorem test_reset_input :
    (stepWith testWf (given (held .A cool21) .reset)).block = Block.reset := by decide

/-! ## Commands, under TESTCFG -/

-- V-S1, V-S2: the sentinel of vendor D's mode is 1.
theorem test_init_D :
    (runCmd testWf (.init 3) State.reset).block.app =
      some { vendor := .D, ax := axes 0 1 25 0 0 0 0 0 0 0 } := by decide
-- V-S4: nothing changes.
theorem test_init_200 :
    runCmd testWf (.init 200) (held .A cool21) =
      { held .A cool21 with port := { pending := [], resp := err .model, saveReq := false } } := by decide
-- V-S6: 5 clamps to 18 with one `Save`.
theorem test_set_temp_5 :
    (runCmd testWf (.set 2 5) (held .A cool21)).block =
      { (held .A (axes 1 3 18 0 0 0 0 0 0 0)).block with trace := [.save] } := by decide
-- V-S9: a no-op although 0 is not in the domain.
theorem test_set_mode_0 :
    (runCmd testWf (.set 1 0) (held .D cool21)).block = (held .D cool21).block ∧
    answer (.set 1 0) (held .D cool21) = ok 3 := by decide
-- V-S13.
theorem test_get_temp : answer (.get 2) (held .A (axes 0 0 25 0 0 0 0 0 0 0)) = ok 25 := by decide
-- V-S19.
theorem test_get_noinst : answer (.get 2) State.reset = err .noinst := by decide
-- V-S15: code 1 is the aliased sentinel.
theorem test_capq_D_mode :
    answer (.capq 1 1) (held .D cool21) = ok 0 ∧ answer (.capq 1 2) (held .D cool21) = ok 1 := by decide
-- V-S17.
theorem test_capq_temp :
    answer (.capq 2 17) (held .A cool21) = ok 0 ∧ answer (.capq 2 32) (held .A cool21) = ok 1 := by decide
-- V-S18.
theorem test_info_C :
    answer (.info 0) (held .C cool21) = ok 2 ∧ answer (.info 1) (held .C cool21) = ok 16 ∧
    answer (.info 2) (held .C cool21) = ok 30 ∧ answer (.info 3) (held .C cool21) = ok 1 ∧
    answer (.info 4) (held .C cool21) = ok 1 ∧ answer (.info 5) (held .C cool21) = err .stale := by decide
-- V-X1.
theorem test_enc_A : answer .enc (held .A cool21) = ok 2 ∧
    (runCmd testWf .enc (held .A cool21)).block.frames.isSome = true := by decide +kernel
-- V-C6: TESTCFG-F aborts.
theorem test_enc_abort :
    runCmd testWfF .enc (held .C (axes 0 0 25 15 0 5 0 0 0 0)) =
      { block := { (held .C (axes 0 0 25 15 0 5 0 0 0 0)).block with fatal := true }
        port := { pending := [], resp := err .fatal, saveReq := false } } := by decide +kernel
-- V-W1, V-W2.
theorem test_asm_A : answer .asm (held .A cool21) = ok 647 := by decide +kernel
theorem test_asm_B : answer .asm (held .B cool21) = ok 227 := by decide +kernel
-- R255: `FLEN 1` of a vendor with one frame.
theorem test_flen :
    answer (.flen 0) (framed .B cool21 [[true, false]]) = ok 2 ∧
    answer (.flen 1) (framed .B cool21 [[true, false]]) = err .range := by decide
-- R256: the first bit, and the index equal to the length.
theorem test_rdbit :
    answer (.rdbit 0 0) (framed .B cool21 [[true, false]]) = ok 1 ∧
    answer (.rdbit 0 2) (framed .B cool21 [[true, false]]) = err .range := by decide
-- V-I10.
theorem test_rdbit_stale : answer (.rdbit 0 60000) (held .A cool21) = err .stale := by decide
-- R282, V-W6: after `ENC` alone.
theorem test_wlen_stale : answer .wlen (framed .B cool21 [[true]]) = err .stale := by decide
-- R283.
theorem test_rdpulse :
    answer (.rdpulse 2) { State.reset with block := { (held .B cool21).block with wave := some [7, 8, 9] } } = ok 9 ∧
    answer (.rdpulse 3) { State.reset with block := { (held .B cool21).block with wave := some [7, 8, 9] } } =
      err .range := by decide

/-! ## Engines -/

-- V-E1.
theorem test_rev8 : [0x00, 0xFF, 0x01, 0x80, 0x39, 0x2A, 0x63, 0x11, 0xDA, 0x27, 0x81, 0x5A].map rev8 =
    [0x00, 0xFF, 0x80, 0x01, 0x9C, 0x54, 0xC6, 0x88, 0x5B, 0xE4, 0x81, 0x5A] := by decide
-- V-E2.
theorem test_cpl8 : [0x00, 0xFF, 0x39, 0x01, 0xA5].map cpl8 = [0xFF, 0x00, 0xC6, 0xFE, 0x5A] := by decide
-- V-E3.
theorem test_cpl4 : [0x0, 0xF, 0xB, 0x6].map cpl4 = [0xF, 0x0, 0x4, 0x9] := by decide
-- V-E4.
theorem test_nibp : [0x0, 0xF, 0xB, 0x2, 0x3, 0x6, 0x8].map nibp =
    [0x0F, 0xF0, 0xB4, 0x2D, 0x3C, 0x69, 0x87] := by decide
-- V-E5.
theorem test_add8 : add8 0x39 0x2A = 0x63 ∧ add8 0xFF 0x01 = 0 ∧ add8 0x80 0x80 = 0 ∧ add8 0xFF 0xFF = 0xFE := by
  decide
-- V-E6.
theorem test_sum8 : sum8 [0, 0, 0x39, 0x2A] = 0x63 ∧ sum8 (List.replicate 16 0xFF) = 0xF0 ∧
    sum8 [0x11, 0xDA, 0x27] = 0x12 := by decide
-- V-E7.
theorem test_sum2 : sum2 0x30 0x05 = some 0x35 ∧ sum2 0xFF 0x00 = some 0xFF ∧ sum2 0xFF 0x01 = none ∧
    sum2 0x80 0x80 = none := by decide
-- V-E8.
theorem test_pack : pack [0x9C, 0x01] =
    [true, false, false, true, true, true, false, false, false, false, false, false, false, false, false, true] := by
  decide
-- V-E9.
theorem test_tlutd : [16, 17, 18, 21, 25, 30, 0, 255].map (tlutD Config.testCfg) =
    [0, 0, 1, 6, 0xC, 0xB, 0, 0] := by decide
-- V-E10.
theorem test_tnibb : [16, 21, 25, 32].map (tnibB Config.testCfg) = [0xF, 0xA, 0x6, 0xF] := by decide
-- V-E11.
theorem test_tcodea : [(3, 21), (3, 18), (3, 32), (1, 25), (2, 21), (5, 30), (0, 21), (3, 200)].map
    (fun q => tcodeA Config.testCfg q.1 q.2) = [0x2A, 0x24, 0x40, 0x32, 0xC0, 0x32, 0x00, 0x90] := by decide
-- V-E12.
theorem test_tfldb : [16, 21, 31, 32].map (tfieldB Config.testCfg) = [0x0F, 0x0A, 0x00, 0x3F] := by decide

/-! ## Encoders, under TESTCFG: the transmitted bytes of the vectors -/

/-- `n` bytes of zero. -/
def zeros (n : Nat) : List Byte := List.replicate n 0

-- V-A1.
theorem test_encode_A1 : encodeFrames Config.testCfg .A cool21 = some
    [pack ([0x88, 0x5B, 0xE4, 0x00, 0xA3] ++ zeros 14 ++ [0xA3]),
     pack ([0x88, 0x5B, 0xE4, 0x00, 0x00, 0x9C, 0x54] ++ zeros 12 ++ [0xC6])] := by decide +kernel
-- V-A4: not a thermostat mode.
theorem test_encode_A4 : aFrame Config.testCfg 1 (axes 1 2 21 0 0 0 0 0 0 0) =
    some (pack ([0x88, 0x5B, 0xE4, 0x00, 0x00, 0x94, 0x03] ++ zeros 12 ++ [0x97])) := by decide +kernel
-- V-A3: the other checksum extent.
theorem test_encode_A3 : aSum { Config.testCfg with aCkHdr := true } 0 cool21 = 0xD7 ∧
    aSum { Config.testCfg with aCkHdr := true } 1 cool21 = 0x75 := by decide +kernel
-- V-A5.
theorem test_encode_A5 : encodeFrames Config.testCfg .A (axes 1 3 32 15 0 3 1 0 0 0) = some
    [pack ([0x88, 0x5B, 0xE4, 0x00, 0xA3, 0x00, 0x00, 0x80] ++ zeros 11 ++ [0x63]),
     pack ([0x88, 0x5B, 0xE4, 0x00, 0x00, 0x9C, 0x02, 0x00, 0xFC] ++ zeros 10 ++ [0x1D])] := by decide +kernel
-- V-B1, V-B2, V-B3: in between, at the minimum, at the maximum.
theorem test_encode_B1 : bTransmitted Config.testCfg cool21 =
    [0x01, 0xFE, 0x10, 0xEF, 0x83, 0x7C, 0x0A, 0xF5, 0x00, 0xFF, 0x00, 0xFF, 0x00, 0xFF] := by decide +kernel
theorem test_encode_B2 : bTransmitted Config.testCfg { cool21 with temp := 16 } =
    [0x01, 0xFE, 0x10, 0xEF, 0x83, 0x7C, 0x0F, 0xF0, 0xA5, 0x5A, 0x00, 0xFF, 0x00, 0xFF] := by decide +kernel
theorem test_encode_B3 : bTransmitted Config.testCfg { cool21 with temp := 32 } =
    [0x01, 0xFE, 0x10, 0xEF, 0x83, 0x7C, 0x3F, 0xC0, 0x00, 0xFF, 0x00, 0xFF, 0x00, 0xFF] := by decide +kernel
-- V-B4: the other bit order.
theorem test_encode_B4 : bTransmitted { Config.testCfg with bLsbFirst := true } cool21 =
    [0x80, 0x7F, 0x08, 0xF7, 0xC1, 0x3E, 0x50, 0xAF, 0x00, 0xFF, 0x00, 0xFF, 0x00, 0xFF] := by decide +kernel
-- V-C1: the checksum byte is not reversed.
theorem test_encode_C1 : cTransmitted Config.testCfg cool21 = some
    [0x40, 0x04, 0x07, 0x20, 0x00, 0x8C, 0x54, 0x01, 0xF5, 0x00, 0x00, 0x60, 0x06, 0x00, 0x00, 0x01, 0x00, 0x60,
      0x7C] := by decide +kernel
-- V-C2: the sum over the reversed bytes.
theorem test_encode_C2 : (cTransmitted { Config.testCfg with cCkRev := true } cool21).bind (·[18]?) = some 0x08 := by
  decide +kernel
-- V-C3.
theorem test_encode_C3 : cTransmitted Config.testCfg (axes 1 3 21 2 0 3 1 1 0 0) = some
    [0x40, 0x04, 0x07, 0x20, 0x00, 0x8C, 0x54, 0x01, 0x4A, 0x00, 0x00, 0x60, 0x06, 0x84, 0x00, 0x01, 0x00, 0x60,
      0x40] := by decide +kernel
-- V-C7.
theorem test_encode_C7 : cTransmitted testCfgF (axes 0 0 25 1 0 5 0 0 0 0) = some
    [0x40, 0x04, 0x07, 0x20, 0x00, 0x00, 0x4C, 0x01, 0x9F, 0x00, 0x00, 0x60, 0x06, 0x00, 0x00, 0x01, 0x00, 0x60,
      0x9D] := by decide +kernel
-- V-D1, V-D2: temperatures 16 and 17.
theorem test_encode_D1 : encodeFrames Config.testCfg .D { cool21 with temp := 16 } = some
    [pack [0xB4, 0x2D, 0x0F, 0x3C, 0x0F, 0x87], pack [0xD5, 0x66, 0x00, 0x00, 0x00, 0x3B]] := by decide +kernel
theorem test_encode_D2 : encodeFrames Config.testCfg .D { cool21 with temp := 17 } = some
    [pack [0xB4, 0x2D, 0x0F, 0x3C, 0x0F, 0x87], pack [0xD5, 0x66, 0x00, 0x00, 0x00, 0x3B]] := by decide +kernel
-- V-D3.
theorem test_encode_D3 : encodeFrames Config.testCfg .D (axes 1 3 21 0 0 2 0 0 0 0) = some
    [pack [0xB4, 0x2D, 0x2D, 0x3C, 0x69, 0x87], pack [0xD5, 0x66, 0x00, 0x02, 0x00, 0x3B]] := by decide +kernel

/-! ## Waves, under TESTCFG -/

/-- The wave of a state under TESTCFG. -/
def waveOf (v : Vendor) (S : Axes) : Wave :=
  assemble Config.testCfg v ((encodeFrames Config.testCfg v S).getD [])

-- V-W1: the start, the gap between the blocks, the sum.
theorem test_wave_A : (waveOf .A cool21).take 12 =
      [3500, 1750, 430, 1320, 430, 430, 430, 430, 430, 430, 430, 1320] ∧
    ((waveOf .A cool21).drop 320).take 10 = [430, 1320, 430, 25000, 3500, 1750, 430, 1320, 430, 430] ∧
    ((waveOf .A cool21).map BitVec.toNat).sum = 348050 := by decide +kernel
-- V-W3.
theorem test_wave_C : (waveOf .C cool21).length = 307 ∧
    (waveOf .C cool21).drop 302 = [440, 430, 440, 430, 440] := by decide +kernel
-- V-W4.
theorem test_wave_D : (waveOf .D { cool21 with temp := 16 }).length = 299 ∧
    ((waveOf .D { cool21 with temp := 16 }).drop 196).take 8 = [560, 1600, 560, 5000, 4400, 4300, 560, 1600] ∧
    ((waveOf .D { cool21 with temp := 16 }).map BitVec.toNat).sum = 261080 := by decide +kernel

/-! ## Text -/

-- Program lines of `95_test_vectors.md` section 4.
theorem test_text_set : assembleLine "SET TEMP, 21" = some 0x22000015 := by decide +kernel
theorem test_text_hex : assembleLine "ENG.ADD8 0xFF, 0x01" = some 0xC400FF01 := by decide +kernel
theorem test_text_init : assembleLine "INIT D" = some 0x10000003 := by decide +kernel
theorem test_text_rdbit : assembleLine "RDBIT 1, 160" = some 0x910000A0 := by decide +kernel
theorem test_text_none : assembleLine "JUMP 4" = none := by decide +kernel
-- R100 with log entry 7: spaces around the operands, inside one, in place of a comma; hexadecimal digits.
theorem test_text_spaces : assembleLine "  SET  TEMP ,  21 " = some 0x22000015 ∧ assembleLine " ENC " = some 0x60000000 ∧
    assembleLine "SET TEMP, 2 1" = none ∧ assembleLine "GET 0 1" = none ∧ assembleLine "SET TEMP 21" = none := by
  decide +kernel
theorem test_text_hex_case : assembleLine "ENG.REV8 0xaB" = some 0xC00000AB ∧ assembleLine "ENG.REV8 0XAB" = none ∧
    assembleLine "ENG.REV8 0x" = none := by decide +kernel

/-! ## Witnesses: every obligation with hypotheses has a state and operands that meet them -/

theorem witness_DecodeOfEncode : (Instr.set 9 255).wellFormed = true ∧ (Instr.info 5).wellFormed = true ∧
    (Instr.rdbit 1 65535).wellFormed = true := by decide
theorem witness_EveryWordOneCommandOrIllegal : decode 0xB000FFFF = .ok (.rdpulse 65535) := by decide
/-- One word for each clause of R93, with the last legal value of three fields beside them. -/
theorem witness_IllegalWordsExactly :
    (given (held .A cool21) (.command 0xC9000000)).port.pending = .command 0xC9000000 :: [] ∧
    (∀ w ∈ [0xD0000000, 0x00010000, 0x10000100, 0x3A000000, 0x56000000, 0x92000000, 0xC9000000, 0xC2000010],
      illegalWord w) ∧
    (∀ w ∈ [0x39000000, 0x55000000, 0x91000000, 0xC200000F], ¬ illegalWord w) := by
  refine ⟨rfl, ?_, ?_⟩ <;> simp [illegalWord, illegalFields]
theorem witness_StepRunsTheDecodedCommand :
    (given State.reset (.command 0x54000000)).port.pending = .command 0x54000000 :: [] ∧
    decode 0x54000000 = .ok (.info 4) := by decide
theorem witness_ResetInputResetsTheBlock :
    (given (held .A cool21) .reset).port.pending = .reset :: [] := by decide
theorem witness_InitConstructsTheInstance : 3 < (4#8).toNat ∧ 3 < (255#8).toNat ∧ vendorCode .A = 0 ∧
    vendorCode .D = 3 := by decide
theorem witness_SetWritesOrRefuses : State.reset.block.app = none ∧
    (held .A cool21).block.app = some { vendor := .A, ax := cool21 } := by decide
theorem witness_TemperatureClamps :
    (held .A cool21).block.app = some { vendor := .A, ax := cool21 } ∧ (255#8) ≠ 0 ∧ (1#8) ≠ 0 := by decide
theorem witness_AcceptedSetFrame : (held .A cool21).block.app = some { vendor := .A, ax := cool21 } ∧
    (5#8) ≠ 0 ∧ settledValue Config.testCfg .A .mode 5 = some 5 ∧
    settledValue Config.testCfg .A .temp 5 = some 18 := by decide
theorem witness_GetReadsTheAxis : State.reset.block.app = none ∧
    (held .D cool21).block.app = some { vendor := .D, ax := cool21 } := by decide
/-- Commands between: a refused and a zero `SET` of the axis, a `SET` of another axis, a refused `INIT`, `ASM`. -/
theorem witness_UnsetAxisReadsAsSentinel :
    ∀ i ∈ [Instr.set 1 9, .set 1 0, .set 2 21, .init 4, .asm],
      (∀ w, i = .init w → 3 < w.toNat) ∧
      (∀ x, i = .set (axisNum .mode) x → x = 0 ∨ (Axis.mode ≠ .temp ∧ testWf.val.dom .D .mode x = false)) := by
  simp [axisNum, testWf, Config.testCfg, Config.testDom]
theorem witness_CapqAnswersMembership : State.reset.block.app = none ∧
    (held .B cool21).block.app = some { vendor := .B, ax := cool21 } := by decide
theorem witness_EncLatchesTheFrames : State.reset.block.app = none ∧
    (held .C cool21).block.app = some { vendor := .C, ax := cool21 } := by decide
theorem witness_AsmLatchesTheWave : State.reset.block.app = none ∧
    (held .A cool21).block.app = some { vendor := .A, ax := cool21 } := by decide
theorem witness_EncodingRespondsOkay :
    (held .C cool21).block.app = some { vendor := .C, ax := cool21 } := by decide
/-- The cause is removed by `SET FAN_V, 1`, as in program P5. -/
theorem witness_AbortLeavesNothingReadable :
    (held .C (axes 0 0 25 15 0 5 0 0 0 0)).block.app = some { vendor := .C, ax := axes 0 0 25 15 0 5 0 0 0 0 } ∧
    encodeFrames testCfgF .C (axes 0 0 25 15 0 5 0 0 0 0) = none ∧
    (runCmd testWfF (.set (axisNum .fanV) 1)
      (runCmd testWfF .enc (held .C (axes 0 0 25 15 0 5 0 0 0 0)))).block.app =
        some { vendor := .C, ax := axes 0 0 25 1 0 5 0 0 0 0 } ∧
    (encodeFrames testCfgF .C (axes 0 0 25 1 0 5 0 0 0 0)).isSome = true := by decide +kernel

/-- The states of the vectors are valid. -/
theorem valid_cool21 (v : Vendor) : Config.testCfg.ValidAxes v cool21 where
  dom := by intro a _; cases v <;> cases a <;> first | decide | contradiction
  minTemp := by cases v <;> decide
  maxTemp := by cases v <;> decide

theorem witness_RdbitReadsThePresentEncoding : ∃ fs,
    (framed .B cool21 fs).block.Inv Config.testCfg ∧
    (framed .B cool21 fs).block.app = some { vendor := .B, ax := cool21 } ∧
    (framed .B cool21 fs).block.frames ≠ none := by
  refine ⟨[pack (bTransmitted Config.testCfg cool21)], ⟨?_, ?_, ?_⟩, rfl, by simp [framed]⟩
  · intro p hp
    obtain rfl : _ = p := Option.some.inj hp
    exact valid_cool21 .B
  · intro fs hf
    obtain rfl : _ = fs := Option.some.inj hf
    exact ⟨_, rfl, rfl⟩
  · intro w hw; cases hw
theorem witness_ChecksumIsTheSumModulo256 : [(1 : Byte), 2, 3].Perm [3, 1, 2] := by decide
theorem witness_SubFieldSumAborts : sum2 0xA0 0x0F = some 0xAF ∧ (0xA0#8) &&& 0x0F = 0 := by decide
theorem witness_PackPlacesEveryBit : [(0x9C : Byte), 0x01][1]? = some 0x01 ∧ 7 < 8 := by decide
theorem witness_FrameLengthsAreConstant : (encodeFrames Config.testCfg .C cool21).isSome = true := by decide +kernel
theorem witness_VendorABytesInOrder :
    (((aLogical Config.testCfg 1 cool21).getD [])[19]? = some 0x63) := by decide +kernel
theorem witness_VendorAChecksumProperty : (encodeFrames Config.testCfg .A cool21).isSome = true := by decide +kernel
theorem witness_VendorAPowerProperty : Config.testCfg.WF ∧
    Config.testCfg.ValidAxes .A { cool21 with power := Config.testCfg.aPowerOn } ∧
    Config.testCfg.ValidAxes .A { cool21 with power := Config.testCfg.aPowerOff } ∧
    (aLogical Config.testCfg 1 { cool21 with power := Config.testCfg.aPowerOn }).isSome = true ∧
    (aLogical Config.testCfg 1 { cool21 with power := Config.testCfg.aPowerOff }).isSome = true := by
  refine ⟨Config.testCfg_wf, valid_cool21 .A, ⟨?_, by decide, by decide⟩, by decide +kernel, by decide +kernel⟩
  intro a h; cases a <;> first | decide | contradiction
theorem witness_VendorATemperatureByte : Config.testCfg.WF ∧ Config.testCfg.ValidAxes .A cool21 ∧
    Config.testCfg.aThermo cool21.mode = true ∧ cool21.mode = Config.testCfg.aModeCool ∧ cool21.temp = 21 ∧
    Config.testCfg.ValidAxes .A { cool21 with mode := 2 } ∧ Config.testCfg.aThermo 2 = false := by
  refine ⟨Config.testCfg_wf, valid_cool21 .A, by decide, by decide, by decide, ⟨?_, by decide, by decide⟩, by decide⟩
  intro a h; cases a <;> first | decide | contradiction
theorem witness_VendorBComplementProperty :
    1 ≤ Config.testCfg.bNp ∧ 7 ≤ Config.testCfg.bNp ∧ 6 < Config.testCfg.bNp ∧ 7 < 8 := by decide
theorem witness_VendorBTemperatureRules : Config.testCfg.WF ∧ Config.testCfg.ValidAxes .B cool21 ∧
    cool21.temp ≠ Config.testCfg.minTemp .B ∧
    Config.testCfg.ValidAxes .B { cool21 with temp := Config.testCfg.minTemp .B } := by
  refine ⟨Config.testCfg_wf, valid_cool21 .B, by decide, ⟨?_, by decide, by decide⟩⟩
  intro a h; cases a <;> first | decide | contradiction
theorem witness_VendorCBytesInOrder : Config.testCfg.WF ∧
    (encodeFrames Config.testCfg .C cool21).isSome = true := ⟨Config.testCfg_wf, by decide +kernel⟩
theorem witness_VendorDNibblePairs : 5 < Config.testCfg.dNb ∧ 3 < 4 := by decide
theorem witness_VendorDSixteenAndSeventeen : Config.testCfg.WF ∧
    ∀ i, i ≠ Config.testCfg.dTpos →
      Config.testCfg.dRest i { cool21 with temp := 16 } = Config.testCfg.dRest i { cool21 with temp := 17 } := by
  refine ⟨Config.testCfg_wf, ?_⟩
  intro i _
  simp only [Config.testCfg, Config.testDRest]
theorem witness_WaveLengthIsConstantAndOdd : Config.testCfg.WF ∧
    (encodeFrames Config.testCfg .D cool21).isSome = true := ⟨Config.testCfg_wf, by decide +kernel⟩
/-- The last bit of the second block of vendor A, and the last literal after it. -/
theorem witness_SegmentsExpandInPlace : Config.testCfg.WF ∧
    Config.testCfg.segs .A =
      [.lit [3500, 1750], .data 0, .lit [430, 25000], .lit [3500, 1750]] ++ .data 1 :: [.lit [430]] ∧
    ((((encodeFrames Config.testCfg .A cool21).getD []).getD 1 [])[159]? = some false) ∧
    Config.testCfg.segs .A =
      [.lit [3500, 1750], .data 0, .lit [430, 25000], .lit [3500, 1750], .data 1] ++ .lit [430] :: [] ∧
    [(430 : Dur)][0]? = some 430 :=
  ⟨Config.testCfg_wf, by decide +kernel⟩
/-- Two different states of vendor D with the same wave (V-D2). -/
theorem witness_WaveDeterminesTheFrames : Config.testCfg.WF ∧
    (encodeFrames Config.testCfg .D { cool21 with temp := 16 }).isSome = true ∧
    (encodeFrames Config.testCfg .D { cool21 with temp := 17 }).isSome = true ∧
    waveOf .D { cool21 with temp := 16 } = waveOf .D { cool21 with temp := 17 } :=
  ⟨Config.testCfg_wf, by decide +kernel⟩
theorem witness_StepKeepsTheInvariant : State.reset.block.Inv Config.cfg ∧ step State.reset = .next State.reset :=
  ⟨⟨by simp [State.reset, Block.reset], by simp [State.reset, Block.reset], by simp [State.reset, Block.reset]⟩, rfl⟩
theorem witness_StepKeepsTheBuffersWithinCapacity :
    Memory.wf Config.cfg State.reset.block = true ∧ step State.reset = .next State.reset := ⟨rfl, rfl⟩
theorem witness_ErrorsChangeNothingElse :
    exec .wlen State.reset = .next { State.reset with port := { State.reset.port with resp := err .noinst } } := rfl
theorem witness_CodesOfEachCommand : (Instr.init 4).wellFormed = true ∧
    (runCmd testWf (.init 4) State.reset).port.resp = some { code := .err .model, data := 0 } := by decide
theorem witness_OnlyResetClearsInstAndFatal : step (held .A cool21) = .next (held .A cool21) ∧
    (∀ rest, (held .A cool21).port.pending ≠ .reset :: rest) ∧ (held .A cool21).block.app ≠ none :=
  ⟨rfl, by simp [held, State.reset], by simp [held]⟩
theorem witness_OnlyInitAndSetWriteTheInstance : (∀ v, Instr.enc ≠ .init v) ∧ (∀ a x, Instr.enc ≠ .set a x) ∧
    ∀ v, Instr.set 2 5 ≠ .init v := by simp
theorem witness_ReadsHaveNoSideEffect : (match Instr.rdbit 1 159 with
    | .init _ => False
    | .set _ _ => False
    | .enc => False
    | .asm => False
    | _ => True) := trivial
theorem witness_WritesMakeTheBuffersStale : ∃ ax x p w, Instr.set 1 3 = .set (axisNum ax) x ∧
    (framed .A cool21 [[true]]).block.app = some p ∧ x ≠ 0 ∧ settledValue Config.testCfg p.vendor ax x = some w :=
  ⟨.mode, 3, _, 3, rfl, rfl, by decide, rfl⟩
theorem witness_AnswersBeforeTheFirstInit : State.reset.block.app = none ∧ State.reset.block.frames = none ∧
    State.reset.block.wave = none ∧ State.reset.block.fatal = false ∧ (Instr.get 9).wellFormed = true := by decide

end Sys2Proof.Tests
end

namespace Sys2Proof.Proofs

open Sys2Proof.Machine

/-- Settles O7: the law `exec_eq_runCmd`, which compares the two dispatches arm by arm, for every instruction and
state (R9, R300). -/
theorem everyCommandAnswers : Obligations.EveryCommandAnswers := by
  unfold Obligations.EveryCommandAnswers
  intro i s
  exact exec_eq_runCmd i s

end Sys2Proof.Proofs

/-! ## What one step and one command do to the block

`step_block_cases` and `runCmd_app_cases` say it once; the statements about the state below are derived from them and
from `runCmd_cases`. -/

namespace Sys2Proof.Proofs

open Sys2Proof.Machine

/-- Waiting and an illegal word keep the block; only a reset input and a command can change it. -/
theorem step_block_cases {s t : State} (h : step s = .next t) :
    t.block = s.block ∨
    (∃ rest, s.port.pending = .reset :: rest ∧ t.block = Block.reset) ∨
    (∃ i s', s'.block = s.block ∧ t = runCmd Config.given i s') := by
  rcases step_cases s with ⟨_, e⟩ | ⟨rest, hp, e⟩ | ⟨_, _, _, _, _, e⟩ | ⟨_, rest, i, _, _, e⟩ <;>
    obtain rfl := Host.Outcome.next.inj (e.symm.trans h)
  · exact .inl rfl
  · exact .inr (.inl ⟨rest, hp, rfl⟩)
  · exact .inl rfl
  · exact .inr (.inr ⟨i, { s with port := { s.port with pending := rest } }, rfl, rfl⟩)

/-- The induction step of every invariant of the block: it holds at reset, and every command keeps it. -/
theorem step_keeps_block {P : Block → Prop} (hreset : P Block.reset)
    (hcmd : ∀ i s, P s.block → P (runCmd Config.given i s).block) {s t : State} (hs : P s.block)
    (h : step s = .next t) : P t.block := by
  rcases step_block_cases h with e | ⟨_, _, e⟩ | ⟨i, s', e, rfl⟩
  · exact e ▸ hs
  · exact e ▸ hreset
  · exact hcmd i s' (e ▸ hs)

/-- What a command leaves as `VENDOR` and axis registers (R27): they change by an accepted `INIT` or `SET` only. -/
theorem runCmd_app_cases (c : WfConfig) (i : Instr) (s : State) :
    (runCmd c i s).block.app = s.block.app ∨
    (∃ v w, i = .init v ∧ vendorOf v = some w ∧ (runCmd c i s).block.app = some (freshInstance c.val w)) ∨
    (∃ a x ax p w, i = .set a x ∧ axisOf a = some ax ∧ s.block.app = some p ∧ x ≠ 0 ∧
      settledValue c.val p.vendor ax x = some w ∧
      (runCmd c i s).block.app = some { p with ax := setAxis p.ax ax w }) := by
  rcases runCmd_cases c i s with h | ⟨v, w, hi, hw, e⟩ | ⟨a, x, ax, p, w, hi, ha, hp, hx, hw, e⟩ |
    ⟨_, _, _, _, e⟩ | ⟨_, _, _, _, _, e⟩ | ⟨_, _, _, _, _, e⟩
  · exact .inl (by rw [reads_block h])
  · exact .inr (.inl ⟨v, w, hi, hw, by rw [e]; rfl⟩)
  · exact .inr (.inr ⟨a, x, ax, p, w, hi, ha, hp, hx, hw, by rw [e]; rfl⟩)
  · exact .inl (by rw [e]; rfl)
  · exact .inl (by rw [e]; rfl)
  · exact .inl (by rw [e]; rfl)

theorem reads_saveReq {t s : State} (h : Reads t s) : t.port.saveReq = false := by
  rcases h with ⟨_, rfl⟩ | ⟨_, _, rfl⟩ <;> rfl

/-- An `INIT` of a registered vendor (R111). -/
theorem runCmd_init_vendorCode (c : WfConfig) (v : Vendor) (s : State) :
    runCmd c (.init (vendorCode v)) s = okay 0 (construct (freshInstance c.val v) s) := by
  simp [runCmd, initCmd]

/-- A non-zero `SET` whose value the axis accepts (R116, R117). -/
theorem runCmd_set_accepted (c : WfConfig) {ax : Axis} {x w : Byte} {p : Appliance} {s : State}
    (hp : s.block.app = some p) (hx : x ≠ 0) (hw : settledValue c.val p.vendor ax x = some w) :
    runCmd c (.set (axisNum ax) x) s = emitSave (okay (zext32 w) (writeAxis p ax w s)) := by
  rw [runCmd, setCmd, withAxis_some _ (axisOf_axisNum ax), withInstance_some _ hp, if_neg hx]
  simp only [hw]

/-- `GET` of a register (R120). -/
theorem runCmd_get_resp (c : WfConfig) (ax : Axis) {p : Appliance} {s : State} (hp : s.block.app = some p) :
    (runCmd c (.get (axisNum ax)) s).port.resp = some { code := .okay, data := zext32 (p.ax.get ax) } := by
  rw [runCmd, getCmd, withAxis_some _ (axisOf_axisNum ax), withInstance_some _ hp, okay_resp]

/-- The registers after `INIT` (R111). -/
theorem get_freshInstance (c : Config) (v : Vendor) (a : Axis) :
    (freshInstance c v).ax.get a = if a = .temp then c.tempDefault v else c.sent v a := by
  cases a <;> rfl

/-! ## The invariant of the block (R26, R33, R34) -/

/-- `INIT` constructs a valid state: sentinels are members and the default temperature is within the bounds. -/
theorem validAxes_freshInstance {c : Config} (hc : c.WF) (v : Vendor) :
    c.ValidAxes v (freshInstance c v).ax where
  dom a ha := by
    rw [get_freshInstance, if_neg ha]
    exact hc.sent_mem v a ha
  minTemp := (hc.temp_default v).1
  maxTemp := (hc.temp_default v).2

/-- An accepted `SET` keeps a valid state valid: it writes a member of the domain, or a clamped temperature. -/
theorem validAxes_setAxis {c : Config} (hc : c.WF) {v : Vendor} {S : Axes} {a : Axis} {x w : Byte}
    (hS : c.ValidAxes v S) (hw : settledValue c v a x = some w) : c.ValidAxes v (setAxis S a w) := by
  rcases settledValue_cases hw with ⟨rfl, rfl⟩ | ⟨ha, hd, rfl⟩
  · refine ⟨fun b hb => ?_, (clampTemp_bounds hc v x).1, (clampTemp_bounds hc v x).2⟩
    rw [get_setAxis_other _ _ _ _ hb]
    exact hS.dom b hb
  · have htemp : (setAxis S a w).temp = S.temp := get_setAxis_other S a .temp w (Ne.symm ha)
    refine ⟨fun b hb => ?_, htemp ▸ hS.minTemp, htemp ▸ hS.maxTemp⟩
    by_cases hba : b = a
    · rw [hba, get_setAxis_same]
      exact hd
    · rw [get_setAxis_other _ _ _ _ hba]
      exact hS.dom b hb

section
variable {c : Config}

/-- With both valid bits clear the invariant asks only that the registers be valid. -/
theorem inv_of_buffers_absent {b : Block} (hv : ∀ p, b.app = some p → c.ValidAxes p.vendor p.ax)
    (hf : b.frames = none) (hw : b.wave = none) : b.Inv c where
  valid := hv
  frames := by simp [hf]
  wave := by simp [hw]

theorem inv_reset : Block.reset.Inv c :=
  inv_of_buffers_absent (fun _ h => nomatch h) rfl rfl

theorem inv_setFatal {b : Block} (h : b.Inv c) : (setFatal b).Inv c :=
  inv_of_buffers_absent h.valid rfl rfl

theorem inv_construct (hc : c.WF) (v : Vendor) (s : State) :
    (construct (freshInstance c v) s).block.Inv c := by
  refine inv_of_buffers_absent (fun p hp => ?_) rfl rfl
  obtain rfl := Option.some.inj hp
  exact validAxes_freshInstance hc v

theorem inv_writeAxis (hc : c.WF) {p : Appliance} {a : Axis} {x w : Byte} {s : State} (h : s.block.Inv c)
    (hp : s.block.app = some p) (hw : settledValue c p.vendor a x = some w) :
    (writeAxis p a w s).block.Inv c := by
  refine inv_of_buffers_absent (fun q hq => ?_) rfl rfl
  obtain rfl := Option.some.inj hq
  exact validAxes_setAxis hc (h.valid p hp) hw

theorem inv_emitSave {s : State} (h : s.block.Inv c) : (emitSave s).block.Inv c :=
  ⟨h.valid, h.frames, h.wave⟩

/-- `ENC` keeps `WVALID`: a wave held is the wave of the frames held, and those were the same encoding already. -/
theorem inv_latchFrames {p : Appliance} {fs : List Frame} {s : State} (h : s.block.Inv c)
    (hp : s.block.app = some p) (he : encodeFrames c p.vendor p.ax = some fs) :
    (latchFrames fs s).block.Inv c where
  valid := h.valid
  frames fs' hf := by
    obtain rfl := Option.some.inj hf
    exact ⟨p, hp, he⟩
  wave w hw := by
    obtain ⟨q, gs, hq, hg, rfl⟩ := h.wave w hw
    obtain ⟨r, hr, her⟩ := h.frames gs hg
    obtain rfl := Option.some.inj (hq.symm.trans hp)
    obtain rfl := Option.some.inj (hr.symm.trans hp)
    obtain rfl := Option.some.inj (her.symm.trans he)
    exact ⟨_, _, hp, rfl, rfl⟩

theorem inv_latchWave {p : Appliance} {fs : List Frame} {s : State} (h : s.block.Inv c)
    (hp : s.block.app = some p) (he : encodeFrames c p.vendor p.ax = some fs) :
    (latchWave fs (assemble c p.vendor fs) s).block.Inv c where
  valid := h.valid
  frames fs' hf := by
    obtain rfl := Option.some.inj hf
    exact ⟨p, hp, he⟩
  wave w hw := ⟨p, fs, hp, rfl, (Option.some.inj hw).symm⟩

end

/-- Every command keeps the invariant, under every well-formed configuration. -/
theorem runCmd_keeps_inv (c : WfConfig) (i : Instr) (s : State) (h : s.block.Inv c.val) :
    (runCmd c i s).block.Inv c.val := by
  rcases runCmd_cases c i s with hr | ⟨_, w, _, _, e⟩ | ⟨_, _, _, p, w, _, _, hp, _, hw, e⟩ |
    ⟨_, _, _, _, e⟩ | ⟨p, fs, _, hp, he, e⟩ | ⟨p, fs, _, hp, he, e⟩
  · exact reads_block hr ▸ h
  · exact e ▸ inv_construct c.wf w s
  · exact e ▸ inv_emitSave (s := okay (zext32 w) (writeAxis p _ w s)) (inv_writeAxis c.wf h hp hw)
  · exact e ▸ inv_setFatal h
  · exact e ▸ inv_latchFrames h hp he
  · exact e ▸ inv_latchWave h hp he

/-- Settles O49: the invariant holds at reset and every command keeps it (R26, R33, R34). -/
theorem stepKeepsTheInvariant : Obligations.StepKeepsTheInvariant := by
  unfold Obligations.StepKeepsTheInvariant
  intro s t hs h
  exact step_keeps_block inv_reset (runCmd_keeps_inv Config.given) hs h

/-- Settles O50: with nothing constructed and both buffers absent the invariant asks nothing (R41). -/
theorem resetMeetsTheInvariant : Obligations.ResetMeetsTheInvariant := inv_reset

/-! ## Reset (R41, R340) -/

/-- Settles O8: the reset column of R41, read off `State.reset`. -/
theorem resetLeavesNoInstance : Obligations.ResetLeavesNoInstance := by
  unfold Obligations.ResetLeavesNoInstance
  exact ⟨by decide, rfl, rfl, rfl, rfl⟩

/-- Settles O9: with the reset input first in the list, `fetch` finds it and `takeReset` answers it. -/
theorem resetInputResetsTheBlock : Obligations.ResetInputResetsTheBlock := by
  unfold Obligations.ResetInputResetsTheBlock
  intro s rest h
  have hfetch : fetch s = .reset { s with port := { s.port with pending := rest } } := by simp [fetch, h]
  rw [step, hfetch]
  rfl

/-- No command removes what `INIT` constructed (R31). -/
theorem runCmd_keeps_app (c : WfConfig) (i : Instr) (s : State) (h : s.block.app ≠ none) :
    (runCmd c i s).block.app ≠ none := by
  rcases runCmd_app_cases c i s with e | ⟨_, _, _, _, e⟩ | ⟨_, _, _, _, _, _, _, _, _, _, e⟩
  · exact e ▸ h
  · simp [e]
  · simp [e]

/-- No command clears `FATAL` (R32): it is kept, but that an aborted encoding sets it. -/
theorem runCmd_keeps_fatal (c : WfConfig) (i : Instr) (s : State) (h : s.block.fatal = true) :
    (runCmd c i s).block.fatal = true := by
  rcases runCmd_cases c i s with hr | ⟨_, _, _, _, e⟩ | ⟨_, _, _, _, _, _, _, _, _, _, e⟩ |
    ⟨_, _, _, _, e⟩ | ⟨_, _, _, _, _, e⟩ | ⟨_, _, _, _, _, e⟩
  · exact reads_block hr ▸ h
  · exact e ▸ h
  · exact e ▸ h
  · exact e ▸ rfl
  · exact e ▸ h
  · exact e ▸ h

/-- Settles O54: a step that takes no reset input either keeps the block or runs a command; no command removes what
`INIT` constructed, and none clears `FATAL` (R31, R32, R343). -/
theorem onlyResetClearsInstAndFatal : Obligations.OnlyResetClearsInstAndFatal := by
  unfold Obligations.OnlyResetClearsInstAndFatal
  intro s t h hno
  rcases step_block_cases h with e | ⟨rest, hp, _⟩ | ⟨i, s', e, rfl⟩
  · simp [e]
  · exact absurd hp (hno rest)
  · rw [← e]
    exact ⟨runCmd_keeps_app Config.given i s', runCmd_keeps_fatal Config.given i s'⟩

/-! ## The capacities of the buffers (R36, R37, R39) -/

/-- Every command keeps the buffers within their capacities: the two commands that fill them latch an encoding. -/
theorem runCmd_keeps_memory_wf (c : WfConfig) (i : Instr) (s : State) (h : Memory.wf c.val s.block = true) :
    Memory.wf c.val (runCmd c i s).block = true := by
  rcases runCmd_cases c i s with hr | ⟨_, w, _, _, e⟩ | ⟨_, _, ax, p, w, _, _, _, _, _, e⟩ |
    ⟨_, _, _, _, e⟩ | ⟨_, _, _, _, he, e⟩ | ⟨_, _, _, _, he, e⟩
  · exact reads_block hr ▸ h
  · exact e ▸ memory_wf_construct (freshInstance c.val w) s
  · exact e ▸ memory_wf_writeAxis (c := c.val) p ax w s
  · exact e ▸ memory_wf_raise h
  · exact e ▸ memory_wf_latchFrames c.wf he h
  · exact e ▸ memory_wf_latchWave c.wf s he

/-- Settles O51: the capacities hold at reset and every command keeps them. -/
theorem stepKeepsTheBuffersWithinCapacity : Obligations.StepKeepsTheBuffersWithinCapacity := by
  unfold Obligations.StepKeepsTheBuffersWithinCapacity
  intro s t hs h
  exact step_keeps_block (P := fun b => Memory.wf Config.cfg b = true) (memory_wf_reset Config.cfg)
    (runCmd_keeps_memory_wf Config.given) hs h

/-! ## What writes the registers and the trace -/

/-- Settles O55: of the cases of `runCmd_app_cases` only those of `INIT` and `SET` change anything, and an accepted
`SET` writes one axis register beside the vendor (R27). -/
theorem onlyInitAndSetWriteTheInstance : Obligations.OnlyInitAndSetWriteTheInstance := by
  unfold Obligations.OnlyInitAndSetWriteTheInstance
  intro c i s hinit
  rcases runCmd_app_cases c i s with e | ⟨v, _, hi, _⟩ | ⟨a, x, _, p, _, hi, _, hp, _, _, e⟩
  · exact ⟨fun _ => e, by rw [e]⟩
  · exact absurd hi (hinit v)
  · exact ⟨fun hset => absurd hi (hset a x), by rw [e, hp]; rfl⟩

/-- What a command does to the trace and the strobe together (R35). -/
theorem runCmd_trace_cases (c : WfConfig) (i : Instr) (s : State) :
    ((runCmd c i s).port.saveReq = false ∧ (runCmd c i s).block.trace = s.block.trace) ∨
    ((runCmd c i s).port.saveReq = true ∧ (runCmd c i s).block.trace = s.block.trace ++ [.save] ∧
      ∃ ax x p w, i = .set (axisNum ax) x ∧ s.block.app = some p ∧ x ≠ 0 ∧
        settledValue c.val p.vendor ax x = some w) := by
  rcases runCmd_cases c i s with h | ⟨_, _, _, _, e⟩ | ⟨a, x, ax, p, w, hi, ha, hp, hx, hw, e⟩ |
    ⟨_, _, _, _, e⟩ | ⟨_, _, _, _, _, e⟩ | ⟨_, _, _, _, _, e⟩
  · exact .inl ⟨reads_saveReq h, by rw [reads_block h]⟩
  · exact .inl (by rw [e]; exact ⟨rfl, rfl⟩)
  · refine .inr ⟨by rw [e]; rfl, by rw [e]; rfl, ax, x, p, w, ?_, hp, hx, hw⟩
    rw [hi, axisNum_of_axisOf ha]
  · exact .inl (by rw [e]; exact ⟨rfl, rfl⟩)
  · exact .inl (by rw [e]; exact ⟨rfl, rfl⟩)
  · exact .inl (by rw [e]; exact ⟨rfl, rfl⟩)

/-- Settles O56: trace and strobe move together, and the one command that moves them is an accepted non-zero `SET`
(R35, R113, R116). -/
theorem saveExactlyOnAcceptedSet : Obligations.SaveExactlyOnAcceptedSet := by
  unfold Obligations.SaveExactlyOnAcceptedSet
  intro c i s
  constructor
  · rcases runCmd_trace_cases c i s with ⟨hsave, htrace⟩ | ⟨hsave, htrace, _⟩ <;> simp [hsave, htrace]
  constructor
  · intro hs
    rcases runCmd_trace_cases c i s with ⟨hsave, _⟩ | ⟨_, _, hset⟩
    · exact absurd (hsave.symm.trans hs) (by decide)
    · exact hset
  · rintro ⟨ax, x, p, w, rfl, hp, hx, hw⟩
    rw [runCmd_set_accepted c hp hx hw, emitSave_saveReq]

/-! ## A register that nothing writes keeps its value (R22) -/

/-- There is an appliance of vendor `v` whose register `ax` holds `w`. -/
def RegisterHolds (v : Vendor) (ax : Axis) (w : Byte) (b : Block) : Prop :=
  ∃ p, b.app = some p ∧ p.vendor = v ∧ p.ax.get ax = w

/-- A `SET` of an axis writes nothing when its value is 0 or outside the domain (R113, R115). -/
theorem settledValue_eq_none {c : Config} {v : Vendor} {ax : Axis} {x : Byte} (ha : ax ≠ .temp)
    (hd : c.dom v ax x = false) : settledValue c v ax x = none := by
  simp [settledValue, ha, hd]

/-- A register keeps its value through a command that is no accepted `INIT` and no accepted `SET` of this axis. -/
theorem runCmd_keeps_register (c : WfConfig) {v : Vendor} {ax : Axis} {w : Byte} {s : State} {i : Instr}
    (h : RegisterHolds v ax w s.block) (hinit : ∀ u, i = .init u → 3 < u.toNat)
    (hset : ∀ x, i = .set (axisNum ax) x → x = 0 ∨ (ax ≠ .temp ∧ c.val.dom v ax x = false)) :
    RegisterHolds v ax w (runCmd c i s).block := by
  obtain ⟨p, hp, hv, hw⟩ := h
  rcases runCmd_app_cases c i s with e | ⟨u, _, hi, hu, _⟩ | ⟨a, x, bx, q, y, hi, ha, hq, hx, hy, e⟩
  · exact ⟨p, e.trans hp, hv, hw⟩
  · have hnone := (vendorOf_eq_none u).mpr (hinit u hi)
    exact absurd (hu.symm.trans hnone) (by simp)
  · obtain rfl := Option.some.inj (hq.symm.trans hp)
    refine ⟨_, e, hv, ?_⟩
    by_cases hb : ax = bx
    · subst hb
      rcases hset x (by rw [hi, axisNum_of_axisOf ha]) with hx0 | ⟨htemp, hdom⟩
      · exact absurd hx0 hx
      · rw [hv, settledValue_eq_none htemp hdom] at hy
        exact absurd hy (by simp)
    · exact (get_setAxis_other _ _ _ _ hb).trans hw

/-- Settles O17, by induction on the commands in between: `INIT` writes the sentinel or the default temperature,
and each command in between keeps the register (R22, R111, R113, R120). -/
theorem unsetAxisReadsAsSentinel : Obligations.UnsetAxisReadsAsSentinel := by
  unfold Obligations.UnsetAxisReadsAsSentinel
  intro c v ax s between hbetween
  have hinit : RegisterHolds v ax ((freshInstance c.val v).ax.get ax)
      (runCmd c (.init (vendorCode v)) s).block := by
    rw [runCmd_init_vendorCode]
    exact ⟨_, rfl, rfl, rfl⟩
  obtain ⟨p, hp, _, hget⟩ := List.foldlRecOn
    (motive := fun t => RegisterHolds v ax ((freshInstance c.val v).ax.get ax) t.block)
    between (fun t i => runCmd c i t) hinit
    (fun t ht i hi => runCmd_keeps_register c ht (hbetween i hi).1 (hbetween i hi).2)
  rw [runCmd_get_resp c ax hp, hget, get_freshInstance, zext32, apply_ite (BitVec.setWidth 32)]

/-! ## The buffers after a write, and while they are valid -/

/-- There is an appliance, and both valid bits are clear. -/
def BuffersStale (s : State) : Prop :=
  s.block.app.isSome ∧ s.block.frames = none ∧ s.block.wave = none

/-- Every read of either buffer fails while both valid bits are clear (R308). -/
theorem bufferRead_resp_of_stale (c : WfConfig) {s : State} (h : BuffersStale s) {j : Instr}
    (hj : j = .wlen ∨ j = .info 5 ∨ (∃ f, j = .flen f) ∨ (∃ f k, j = .rdbit f k) ∨ ∃ k, j = .rdpulse k) :
    (runCmd c j s).port.resp = some { code := .err .stale, data := 0 } := by
  obtain ⟨happ, hframes, hwave⟩ := h
  obtain ⟨p, hp⟩ := Option.isSome_iff_exists.mp happ
  rcases hj with rfl | rfl | ⟨f, rfl⟩ | ⟨f, k, rfl⟩ | ⟨k, rfl⟩
  · rw [runCmd, wlenCmd, withInstance_some _ hp, withWave_none _ hwave, raise_resp]
  · rw [runCmd, infoCmd, withSelector_some (sel := .nfr) _ rfl]
    simp only [withInstance_some _ hp, withFrames_none _ hframes, raise_resp]
  · rw [runCmd, flenCmd, withInstance_some _ hp, withFrames_none _ hframes, raise_resp]
  · rw [runCmd, rdbitCmd, withInstance_some _ hp, withFrames_none _ hframes, raise_resp]
  · rw [runCmd, rdpulseCmd, withInstance_some _ hp, withWave_none _ hwave, raise_resp]

/-- Settles O59: an accepted `INIT` or `SET` clears both valid bits, so every read that follows is stale
(R111, R116, R351). -/
theorem writesMakeTheBuffersStale : Obligations.WritesMakeTheBuffersStale := by
  unfold Obligations.WritesMakeTheBuffersStale
  intro c i s hwrite j hj
  refine bufferRead_resp_of_stale c ?_ hj
  rcases hwrite with ⟨v, rfl⟩ | ⟨ax, x, p, w, rfl, hp, hx, hw⟩
  · rw [runCmd_init_vendorCode]
    exact ⟨rfl, rfl, rfl⟩
  · rw [runCmd_set_accepted c hp hx hw]
    exact ⟨rfl, rfl, rfl⟩

/-- The answer of `RDBIT` while frames are held (R256). -/
theorem runCmd_rdbit_resp (c : WfConfig) (f : BitVec 1) (k : BitVec 16) {p : Appliance} {fs : List Frame} {s : State}
    (hp : s.block.app = some p) (hf : s.block.frames = some fs) :
    (runCmd c (.rdbit f k) s).port.resp =
      some ((readBit fs f.toNat k.toNat).elim { code := .err .range, data := 0 }
        fun b => { code := .okay, data := bitData b }) := by
  rw [runCmd, rdbitCmd, withInstance_some _ hp, withFrames_some _ hf]
  cases readBit fs f.toNat k.toNat <;> rfl

/-- Settles O28: by the invariant the frames held are the encoding of the present state, and `RDBIT` reads them
(R33, R256, R257). -/
theorem rdbitReadsThePresentEncoding : Obligations.RdbitReadsThePresentEncoding := by
  unfold Obligations.RdbitReadsThePresentEncoding
  intro c s p f k hinv hp hf
  obtain ⟨fs, hfs⟩ := Option.ne_none_iff_exists'.mp hf
  obtain ⟨q, hq, he⟩ := hinv.frames fs hfs
  obtain rfl := Option.some.inj (hq.symm.trans hp)
  refine ⟨fs, he, ?_⟩
  rw [runCmd_rdbit_resp c f k hp hfs, readBit]
  cases (fs[f.toNat]?).bind fun fr => fr[k.toNat]? <;> rfl

/-! ## INFO (R30, R125) -/

/-- The status register as a number: one bit for each of the four (R30). -/
theorem zext32_statusBits (t : Status) :
    zext32 (statusBits t) = BitVec.ofNat 32 ((if t.inst then 1 else 0) + (if t.fvalid then 2 else 0) +
      (if t.wvalid then 4 else 0) + (if t.fatal then 8 else 0)) := by
  obtain ⟨inst, fvalid, wvalid, fatal⟩ := t
  revert inst fvalid wvalid fatal
  decide

/-- `INFO STATUS` answers the four status bits, with or without an appliance (R30, R125). -/
theorem infoCmd_status (c : WfConfig) (s : State) :
    infoCmd c (selectorNum .status) s = okay (zext32 (statusBits (statusOf s.block))) s := rfl

/-- Settles O19: the word by evaluation at each selector, the answer by the tests of R310 in their order. -/
theorem infoAnswersTheSelector : Obligations.InfoAnswersTheSelector := by
  unfold Obligations.InfoAnswersTheSelector
  intro sel s
  refine ⟨by cases sel <;> decide, ?_⟩
  rw [exec_eq_runCmd, runCmd]
  cases sel with
  | status =>
    rw [infoCmd_status, zext32_statusBits]
    rfl
  | vendor | minTemp | maxTemp | tempStep =>
    rw [infoCmd, withSelector_some _ (selectorOf_selectorNum _)]
    cases happ : s.block.app with
    | none => exact congrArg Host.Outcome.next (withInstance_none _ happ)
    | some p => exact congrArg Host.Outcome.next (withInstance_some _ happ)
  | nfr =>
    rw [infoCmd, withSelector_some _ (selectorOf_selectorNum _)]
    cases happ : s.block.app with
    | none => exact congrArg Host.Outcome.next (withInstance_none _ happ)
    | some p =>
      simp only [withInstance_some _ happ]
      cases hf : s.block.frames with
      | none => exact congrArg Host.Outcome.next (withFrames_none _ hf)
      | some fs => exact congrArg Host.Outcome.next (withFrames_some _ hf)

/-! ## The length and the entries of a wave (R276, R277, R280) -/

/-- A `DATA` segment gives two entries a bit, and every literal but the last has even length: only the last segment
is odd (R276). -/
theorem wavelen_odd {c : Config} (hc : c.WF) (v : Vendor) : c.wavelen v % 2 = 1 := by
  obtain ⟨init, ds, hsegs, hodd, heven⟩ := hc.seg_parity v
  have hinit : 2 ∣ (init.map (c.segLen v)).sum := by
    refine List.dvd_sum fun n hn => ?_
    obtain ⟨g, hg, rfl⟩ := List.mem_map.mp hn
    cases g with
    | lit es => exact Nat.dvd_of_mod_eq_zero (heven es hg)
    | data f => exact Nat.dvd_mul_right 2 _
  have hlen : c.wavelen v = (init.map (c.segLen v)).sum + ds.length := by
    simp [Config.wavelen, hsegs, Config.segLen]
  omega

/-- Durations are positive, those of the literals and those of the timing profile (R7, R271). -/
theorem assemble_ne_zero {c : Config} (hc : c.WF) {v : Vendor} {fs : List Frame} {d : Dur}
    (h : d ∈ assemble c v fs) : d ≠ 0 := by
  obtain ⟨hmark, hone, hzero⟩ := hc.dur_pos v
  rcases mem_assemble c v h with ⟨ds, hlit, hd⟩ | rfl | rfl | rfl
  · exact (hc.lit_pos v ds hlit).2 d hd
  · exact hmark
  · exact hone
  · exact hzero

/-- Settles O46: `assemble_encodeFrames_length` for the length, `WF` for the capacity. -/
theorem waveLengthIsConstantAndOdd : Obligations.WaveLengthIsConstantAndOdd := by
  unfold Obligations.WaveLengthIsConstantAndOdd
  intro c v S fs hc he
  refine ⟨assemble_encodeFrames_length hc he, wavelen_odd hc v, hc.wave_fits.1 v, fun d hd => ?_⟩
  exact Nat.pos_of_ne_zero fun h0 => assemble_ne_zero hc hd (BitVec.eq_of_toNat_eq h0)

end Sys2Proof.Proofs

/-! ## Repeating a command (R61, R63) -/

namespace Sys2Proof.Proofs

open Sys2Proof.Machine

theorem fetch_command {s : State} {w : Word} {rest : List Input} {i : Instr}
    (hp : s.port.pending = .command w :: rest) (hd : decode w = .ok i) :
    fetch s = .command i { s with port := { s.port with pending := rest } } := by
  simp [fetch, hp, hd]

/-- Settles O6: `fetch` takes the word from the port and `step` runs what it decodes to (R63, R95). -/
theorem stepRunsTheDecodedCommand : Obligations.StepRunsTheDecodedCommand := by
  unfold Obligations.StepRunsTheDecodedCommand
  intro s w rest i hp hd
  rw [step, fetch_command hp hd]

/-- A command reads the block alone, and carries the inputs still pending over: the response and the strobe of the
command before it are overwritten unread. -/
theorem runCmd_congr (c : WfConfig) (i : Instr) {s t : State} (hblock : s.block = t.block)
    (hpending : s.port.pending = t.port.pending) : runCmd c i s = runCmd c i t := by
  obtain ⟨b, q, r, v⟩ := s
  obtain ⟨b', q', r', v'⟩ := t
  obtain rfl : b = b' := hblock
  obtain rfl : q = q' := hpending
  cases i <;> rfl

theorem reads_pending {t s : State} (h : Reads t s) : t.port.pending = s.port.pending := by
  rcases h with ⟨_, rfl⟩ | ⟨_, _, rfl⟩ <;> rfl

/-- A command that only read answers the same when it is run again. -/
theorem runCmd_repeat_of_reads {c : WfConfig} {i : Instr} {s : State} (h : Reads (runCmd c i s) s) :
    runCmd c i (runCmd c i s) = runCmd c i s :=
  runCmd_congr c i (reads_block h) (reads_pending h)

/-- Settles O57: a command that is none of the four that write falls under `Reads`, which keeps the block, and the
block is all a second run reads (R61, R66). -/
theorem readsHaveNoSideEffect : Obligations.ReadsHaveNoSideEffect := by
  unfold Obligations.ReadsHaveNoSideEffect
  intro c i s hi
  have hreads : Reads (runCmd c i s) s := by
    rcases runCmd_cases c i s with h | ⟨_, _, rfl, _⟩ | ⟨_, _, _, _, _, rfl, _⟩ | ⟨_, rfl | rfl, _⟩ |
      ⟨_, _, rfl, _⟩ | ⟨_, _, rfl, _⟩
    · exact h
    all_goals exact hi.elim
  exact ⟨reads_block hreads, reads_saveReq hreads, runCmd_repeat_of_reads hreads⟩

/-- What `ENC` and `ASM` have in common: encode the present state, abort or go on with the frames (R253, R281). -/
def encodeThen (c : WfConfig) (latch : Appliance → List Frame → State → State) (s : State) : State :=
  withInstance s fun p =>
    match encodeFrames c.val p.vendor p.ax with
    | none => raise .fatal s
    | some fs => latch p fs s

/-- What `ENC` does with the frames of an encoding (R253). -/
def latchAfterEnc (_ : Appliance) (fs : List Frame) (s : State) : State :=
  okay (countData fs.length) (latchFrames fs s)

/-- What `ASM` does with the frames of an encoding (R281). -/
def latchAfterAsm (c : WfConfig) (p : Appliance) (fs : List Frame) (s : State) : State :=
  okay (countData (assemble c.val p.vendor fs).length) (latchWave fs (assemble c.val p.vendor fs) s)

theorem runCmd_enc_eq_encodeThen (c : WfConfig) : runCmd c .enc = encodeThen c latchAfterEnc := rfl
theorem runCmd_asm_eq_encodeThen (c : WfConfig) : runCmd c .asm = encodeThen c (latchAfterAsm c) := rfl

theorem latchAfterEnc_app (p : Appliance) (fs : List Frame) (s : State) :
    (latchAfterEnc p fs s).block.app = s.block.app := rfl
theorem latchAfterEnc_repeat (p : Appliance) (fs : List Frame) (s : State) :
    latchAfterEnc p fs (latchAfterEnc p fs s) = latchAfterEnc p fs s := rfl
theorem latchAfterAsm_app (c : WfConfig) (p : Appliance) (fs : List Frame) (s : State) :
    (latchAfterAsm c p fs s).block.app = s.block.app := rfl
theorem latchAfterAsm_repeat (c : WfConfig) (p : Appliance) (fs : List Frame) (s : State) :
    latchAfterAsm c p fs (latchAfterAsm c p fs s) = latchAfterAsm c p fs s := rfl

theorem raise_repeat (e : Err) (s : State) : raise e (raise e s) = raise e s := by
  cases e <;> rfl

section
variable {c : WfConfig} {latch : Appliance → List Frame → State → State} {s : State} {p : Appliance}

theorem encodeThen_noinst (hp : s.block.app = none) : encodeThen c latch s = raise .noinst s :=
  withInstance_none _ hp

theorem encodeThen_aborted (hp : s.block.app = some p) (he : encodeFrames c.val p.vendor p.ax = none) :
    encodeThen c latch s = raise .fatal s := by
  rw [encodeThen, withInstance_some _ hp, he]

theorem encodeThen_encoded {fs : List Frame} (hp : s.block.app = some p)
    (he : encodeFrames c.val p.vendor p.ax = some fs) : encodeThen c latch s = latch p fs s := by
  rw [encodeThen, withInstance_some _ hp, he]

/-- Nothing that follows an encoding writes the appliance, so a second run encodes the same state and takes the same
way; it is enough that what is then latched is latched once and for all. -/
theorem encodeThen_repeat (happ : ∀ p fs t, (latch p fs t).block.app = t.block.app)
    (hlatch : ∀ p fs t, latch p fs (latch p fs t) = latch p fs t) (s : State) :
    encodeThen c latch (encodeThen c latch s) = encodeThen c latch s := by
  cases hp : s.block.app with
  | none =>
    rw [encodeThen_noinst hp, encodeThen_noinst (s := raise .noinst s) hp, raise_repeat]
  | some p =>
    cases he : encodeFrames c.val p.vendor p.ax with
    | none =>
      rw [encodeThen_aborted hp he, encodeThen_aborted (s := raise .fatal s) hp he, raise_repeat]
    | some fs =>
      rw [encodeThen_encoded hp he, encodeThen_encoded ((happ p fs s).trans hp) he, hlatch]

end

/-- Settles O58: both commands are an encoding followed by a latch, and both latches write what they find the second
time (R61, R253, R281). -/
theorem encodingTwiceIsEncodingOnce : Obligations.EncodingTwiceIsEncodingOnce := by
  unfold Obligations.EncodingTwiceIsEncodingOnce
  intro c s
  rw [runCmd_enc_eq_encodeThen, runCmd_asm_eq_encodeThen]
  exact ⟨encodeThen_repeat latchAfterEnc_app latchAfterEnc_repeat s,
    encodeThen_repeat (latchAfterAsm_app c) (latchAfterAsm_repeat c) s⟩

end Sys2Proof.Proofs

/-! ## Decode and encode (R80 to R93)

Each clause of the decoder is inverted once, for the answer of a command and for a rejection. The inversions of
`decodeFields` are put together from these opcode by opcode, and reach the words through the fields of a word. -/

namespace Sys2Proof.Proofs

open Sys2Proof.Machine

/-! ### Operands narrower than their field, and the operand of two fields (R81) -/

theorem extract_setWidth_frame (f : BitVec 1) : (f.setWidth 4).extractLsb' 0 1 = f := by
  revert f; decide

theorem extract_setWidth_nibble (x : Nib) : (x.setWidth 8).extractLsb' 0 4 = x := by
  revert x; decide

theorem highNibble_setWidth (x : Nib) : (x.setWidth 8).extractLsb' 4 4 = 0 := by
  revert x; decide

theorem imm16_extract (i : BitVec 16) : imm16 (i.extractLsb' 8 8) (i.extractLsb' 0 8) = i :=
  BitVec.extractLsb'_append_extractLsb'

@[simp] theorem hi_imm16 (hi lo : Byte) : (imm16 hi lo).extractLsb' 8 8 = hi := BitVec.extractLsb'_append_eq_left
@[simp] theorem lo_imm16 (hi lo : Byte) : (imm16 hi lo).extractLsb' 0 8 = lo := BitVec.extractLsb'_append_eq_right

theorem setWidth_extract_frame {a : BitVec 4} (h : a.toNat ≤ 1) : (a.extractLsb' 0 1).setWidth 4 = a := by
  revert a; decide

/-- The unused bits of the operand of `ENG.CPL4` and `ENG.NIBP` (R93 (c)). -/
theorem highNibble_eq_zero_iff (lo : Byte) : lo.extractLsb' 4 4 = 0 ↔ lo.toNat < 16 := by
  rw [BitVec.toNat_eq, BitVec.extractLsb'_toNat, Nat.shiftRight_eq_div_pow]
  have := lo.isLt
  simp
  omega

theorem setWidth_lowNibble {lo : Byte} (h : lo.extractLsb' 4 4 = 0) : (lo.extractLsb' 0 4).setWidth 8 = lo := by
  rw [highNibble_eq_zero_iff] at h
  apply BitVec.eq_of_toNat_eq
  simp
  omega

theorem axisNumOk_iff (a : BitVec 4) : axisNumOk a = true ↔ a.toNat ≤ 9 := by
  simp [axisNumOk]

theorem selectorNumOk_iff (s : BitVec 4) : selectorNumOk s = true ↔ s.toNat ≤ 5 := by
  simp [selectorNumOk]

/-! ### The clauses of the decoder, inverted (R93) -/

/-- The outcome of decoding is an error. -/
def Rejected (r : Except Illegal Instr) : Prop := ∃ e, r = .error e

@[simp] theorem not_rejected_ok (i : Instr) : ¬ Rejected (.ok i) := fun ⟨_, h⟩ => nomatch h
@[simp] theorem rejected_error (e : Illegal) : Rejected (.error e) := ⟨e, rfl⟩

section
variable {p : Prop} [Decidable p] {r : Except Illegal Instr}

theorem ite_error_eq_ok {e : Illegal} {i : Instr} : (if p then r else .error e) = .ok i ↔ p ∧ r = .ok i := by
  split <;> simp [*]

theorem rejected_ite_error {e : Illegal} : Rejected (if p then r else .error e) ↔ ¬ p ∨ Rejected r := by
  split <;> simp [*]

end

section
variable {b : Bool} {a : BitVec 4} {i j : Instr} {r : Except Illegal Instr} {k : BitVec 1 → Except Illegal Instr}

theorem ifUnusedZero_eq_ok : ifUnusedZero b i = .ok j ↔ b = true ∧ i = j := by
  rw [ifUnusedZero, ite_error_eq_ok, Except.ok.injEq]

theorem withAxisField_eq_ok : withAxisField a r = .ok i ↔ axisNumOk a = true ∧ r = .ok i :=
  ite_error_eq_ok

theorem withFrameField_eq_ok : withFrameField a k = .ok i ↔ a.toNat ≤ 1 ∧ k (a.extractLsb' 0 1) = .ok i :=
  ite_error_eq_ok

theorem rejected_ifUnusedZero : Rejected (ifUnusedZero b i) ↔ b = false := by
  simp [ifUnusedZero, rejected_ite_error]

theorem rejected_withAxisField : Rejected (withAxisField a r) ↔ 10 ≤ a.toNat ∨ Rejected r := by
  rw [withAxisField, rejected_ite_error, axisNumOk_iff, Nat.not_le, Nat.lt_iff_add_one_le]

theorem rejected_withFrameField : Rejected (withFrameField a k) ↔ 2 ≤ a.toNat ∨ Rejected (k (a.extractLsb' 0 1)) := by
  rw [withFrameField, rejected_ite_error, Nat.not_le, Nat.lt_iff_add_one_le]

end

/-! ### The round trip from a command (R87, R89) -/

/-- The frame operand read back from the field that `encode` writes it to (R81). -/
theorem withFrameField_setWidth (f : BitVec 1) (r : BitVec 1 → Except Illegal Instr) :
    withFrameField (f.setWidth 4) r = r f := by
  have h : (f.setWidth 4).toNat ≤ 1 := by revert f; decide
  rw [withFrameField, if_pos h, extract_setWidth_frame]

/-- The nibble operand read back from the field that `encode` writes it to (R81, R93 (c)). -/
theorem ifUnusedZero_setWidth_nibble (x : Nib) (mk : Nib → Instr) :
    ifUnusedZero ((0 : Byte) == 0 && (x.setWidth 8).extractLsb' 4 4 == 0) (mk ((x.setWidth 8).extractLsb' 0 4)) =
      .ok (mk x) := by
  rw [highNibble_setWidth, extract_setWidth_nibble]
  rfl

/-- Settles O1: the word of a command holds its fields (`decode_mkWord`), and `decodeFields`, evaluated at the opcode
that `encode` writes, reads the operands back from them (R80, R87, R89). -/
theorem decodeOfEncode : Obligations.DecodeOfEncode := by
  unfold Obligations.DecodeOfEncode
  intro i hi
  cases i with
  | nop | init | enc | asm | wlen | engRev8 | engCpl8 | engAdd8 | engTlutd | engTnibb | engTcodea | engTfldb =>
    exact decode_mkWord _ _ _ _
  | set | get | capq | info => exact (decode_mkWord _ _ _ _).trans (if_pos hi)
  | flen f => exact (decode_mkWord _ _ _ _).trans (withFrameField_setWidth f fun g => ifUnusedZero true (.flen g))
  | rdbit f k =>
    calc decode (encode (.rdbit f k))
        = withFrameField (f.setWidth 4) fun g => .ok (.rdbit g (imm16 (k.extractLsb' 8 8) (k.extractLsb' 0 8))) :=
          decode_mkWord _ _ _ _
      _ = .ok (.rdbit f k) := by rw [withFrameField_setWidth, imm16_extract]
  | rdpulse k =>
    calc decode (encode (.rdpulse k))
        = .ok (.rdpulse (imm16 (k.extractLsb' 8 8) (k.extractLsb' 0 8))) := decode_mkWord _ _ _ _
      _ = .ok (.rdpulse k) := by rw [imm16_extract]
  | engCpl4 x | engNibp x => exact (decode_mkWord _ _ _ _).trans (ifUnusedZero_setWidth_nibble x _)

/-! ### The round trip from a word (R82) -/

/-- A field that the decoder has compared with a number is that number. -/
theorem field_eq_ofNat {n k : Nat} {x : BitVec n} (h : x.toNat = k) : x = BitVec.ofNat n k := by
  simp [← h]

/-- The sub-opcodes of `ENG` (R89): a command that is answered has the word of the fields it was read from. -/
theorem encode_of_decodeEng {a : BitVec 4} {hi lo : Byte} {i : Instr} (h : decodeEng a hi lo = .ok i) :
    i.wellFormed = true ∧ encode i = mkWord 0xC a hi lo := by
  unfold decodeEng at h
  split at h <;> rename_i ha
  case h_10 => cases h
  all_goals
    obtain rfl := field_eq_ofNat ha
    simp only [ifUnusedZero_eq_ok, Bool.and_eq_true, beq_iff_eq, Except.ok.injEq] at h
  case h_3 | h_4 => -- CPL4, NIBP
    obtain ⟨⟨rfl, hz⟩, rfl⟩ := h
    exact ⟨rfl, by rw [encode, setWidth_lowNibble hz]; rfl⟩
  case h_5 | h_8 => exact h ▸ ⟨rfl, rfl⟩ -- ADD8, TCODEA
  all_goals
    obtain ⟨rfl, rfl⟩ := h
    exact ⟨rfl, rfl⟩

/-- The opcodes (R87): a command that is answered is legal, and has the word of the fields it was read from. -/
theorem encode_of_decodeFields {op a : BitVec 4} {hi lo : Byte} {i : Instr} (h : decodeFields op a hi lo = .ok i) :
    i.wellFormed = true ∧ encode i = mkWord op a hi lo := by
  unfold decodeFields at h
  split at h <;> rename_i hop
  case h_14 => cases h
  all_goals obtain rfl := field_eq_ofNat hop
  case h_13 => exact encode_of_decodeEng h
  all_goals simp only [ifUnusedZero_eq_ok, withAxisField_eq_ok, withFrameField_eq_ok, ite_error_eq_ok,
    Bool.and_eq_true, beq_iff_eq, Except.ok.injEq] at h
  case h_1 | h_7 | h_8 | h_11 => -- NOP, ENC, ASM, WLEN
    obtain ⟨⟨⟨rfl, rfl⟩, rfl⟩, rfl⟩ := h
    exact ⟨rfl, rfl⟩
  case h_2 => -- INIT
    obtain ⟨⟨rfl, rfl⟩, rfl⟩ := h
    exact ⟨rfl, rfl⟩
  case h_3 | h_5 => -- SET, CAPQ
    obtain ⟨ha, rfl, rfl⟩ := h
    exact ⟨ha, rfl⟩
  case h_4 | h_6 => -- GET, INFO
    obtain ⟨ha, ⟨rfl, rfl⟩, rfl⟩ := h
    exact ⟨ha, rfl⟩
  case h_9 => -- FLEN
    obtain ⟨ha, ⟨rfl, rfl⟩, rfl⟩ := h
    exact ⟨rfl, by rw [encode, setWidth_extract_frame ha]; rfl⟩
  case h_10 => -- RDBIT
    obtain ⟨ha, rfl⟩ := h
    exact ⟨rfl, by rw [encode, setWidth_extract_frame ha, hi_imm16, lo_imm16]; rfl⟩
  case h_12 => -- RDPULSE
    obtain ⟨rfl, rfl⟩ := h
    exact ⟨rfl, by rw [encode, hi_imm16, lo_imm16]; rfl⟩

/-- The words (R80): by `mkWord_fields` a word with `z = 0` is the word of its other fields. -/
theorem encode_of_decode {w : Word} {i : Instr} (h : decode w = .ok i) : i.wellFormed = true ∧ encode i = w := by
  obtain ⟨hz, hf⟩ := ite_error_eq_ok.mp h
  rw [← mkWord_fields w (eq_of_beq hz)]
  exact encode_of_decodeFields hf

/-- Settles O2: a word that decodes is the word `encode` writes for its command, so no other word decodes to the same
command (R82). -/
theorem everyWordOneCommandOrIllegal : Obligations.EveryWordOneCommandOrIllegal := by
  unfold Obligations.EveryWordOneCommandOrIllegal
  constructor
  · intro w
    cases h : decode w with
    | ok i =>
      obtain ⟨hwf, he⟩ := encode_of_decode h
      exact .inl ⟨i, hwf, rfl, he⟩
    | error e => exact .inr ⟨e, rfl⟩
  · intro w w' i h h'
    calc w = encode i := (encode_of_decode h).2.symm
      _ = w' := (encode_of_decode h').2

/-! ### The illegal words (R93) -/

theorem field_eq_zero_iff {n : Nat} (x : BitVec n) : x = 0#n ↔ x.toNat = 0 := by
  simp [← BitVec.toNat_inj]

/-- Clauses (c) and (g) for `ENG`. -/
theorem rejected_decodeEng (a : BitVec 4) (hi lo : Byte) :
    Rejected (decodeEng a hi lo) ↔
      9 ≤ a.toNat ∨ (a.toNat ∈ [0, 1, 5, 6, 8] ∧ hi.toNat ≠ 0) ∨
        (a.toNat ∈ [2, 3] ∧ (hi.toNat ≠ 0 ∨ 16 ≤ lo.toNat)) := by
  unfold decodeEng
  split <;> rename_i ha
  case h_10 => exact iff_of_true (rejected_error _) (.inl (by simp only [imp_false] at *; omega))
  case h_3 | h_4 => -- CPL4, NIBP
    rw [rejected_ifUnusedZero, ← Bool.not_eq_true, Bool.and_eq_true, beq_iff_eq, beq_iff_eq, highNibble_eq_zero_iff]
    simp [ha, field_eq_zero_iff]
    omega
  all_goals simp [ha, rejected_ifUnusedZero, field_eq_zero_iff]

/-- The clauses (a) and (c) to (g), opcode by opcode. -/
theorem rejected_decodeFields (op a : BitVec 4) (hi lo : Byte) :
    Rejected (decodeFields op a hi lo) ↔ illegalFields op.toNat a.toNat 0 hi.toNat lo.toNat := by
  unfold decodeFields
  split <;> rename_i hop
  case h_14 => exact iff_of_true (rejected_error _) (.inl (by simp only [imp_false] at *; omega))
  case h_13 => simp [illegalFields, hop, rejected_decodeEng]
  case h_10 | h_12 => -- RDBIT, RDPULSE
    simp [hop, illegalFields, rejected_ifUnusedZero, rejected_withFrameField, field_eq_zero_iff]
  all_goals
    simp [hop, illegalFields, rejected_ifUnusedZero, rejected_withAxisField, rejected_withFrameField,
      rejected_ite_error, ← Bool.not_eq_true, selectorNumOk_iff, field_eq_zero_iff]
    omega

/-- Clause (b) stands beside the others. -/
theorem illegalFields_iff_z (op a z hi lo : Nat) :
    illegalFields op a z hi lo ↔ z ≠ 0 ∨ illegalFields op a 0 hi lo := by
  simp only [illegalFields, ne_eq, not_true_eq_false, false_or]
  exact or_left_comm

theorem illegalWord_iff (w : Word) :
    illegalWord w ↔ illegalFields (opField w).toNat (aField w).toNat (zField w).toNat (hiField w).toNat
      (loField w).toNat := by
  have hop : w.toNat / 2 ^ 28 % 2 ^ 4 = w.toNat / 2 ^ 28 := Nat.mod_eq_of_lt (by have := w.isLt; omega)
  simp only [opField, aField, zField, hiField, loField, BitVec.extractLsb'_toNat, Nat.shiftRight_eq_div_pow, hop]
  simp [illegalWord]

theorem rejected_decode (w : Word) : Rejected (decode w) ↔ illegalWord w := by
  rw [decode, rejected_ite_error, rejected_decodeFields, illegalWord_iff, illegalFields_iff_z _ _ (zField w).toNat,
    beq_iff_eq, ne_eq, ← field_eq_zero_iff]
  rfl

theorem fetch_illegal {s : State} {w : Word} {rest : List Input} {e : Illegal}
    (hp : s.port.pending = .command w :: rest) (hd : decode w = .error e) :
    fetch s = .illegal { s with port := { s.port with pending := rest } } := by
  simp [fetch, hp, hd]

theorem takeIllegal_eq_failed (s : State) : takeIllegal s = failed s .illegal := rfl

/-- Settles O3: `rejected_decode` goes through the clauses, and a rejected word is answered by `takeIllegal` (R93). -/
theorem illegalWordsExactly : Obligations.IllegalWordsExactly := by
  unfold Obligations.IllegalWordsExactly
  refine ⟨rejected_decode, fun s w rest hp hw => ?_⟩
  obtain ⟨e, he⟩ := (rejected_decode w).mpr hw
  rw [step, fetch_illegal hp he]
  exact congrArg Host.Outcome.next (takeIllegal_eq_failed _)

/-! ### Words from the tables, response codes (R85, R87, R89) -/

/-- Settles O4: each of the words is the word of its command, by evaluation of `encode`, and decodes to it by
`decodeOfEncode`. -/
theorem tableWordsDecode : Obligations.TableWordsDecode := by
  unfold Obligations.TableWordsDecode
  have roundTrip {w : Word} {i : Instr} (hwf : i.wellFormed = true) (hw : encode i = w) : decode w = .ok i :=
    hw ▸ decodeOfEncode i hwf
  exact ⟨roundTrip rfl rfl, roundTrip rfl rfl, roundTrip rfl rfl, roundTrip rfl rfl, roundTrip rfl rfl,
    roundTrip rfl rfl, roundTrip rfl rfl⟩

theorem respCodeNum_lt (k : RespCode) : (respCodeNum k).toNat < 8 := by
  rcases k with _ | e
  · decide
  · cases e <;> decide

/-- Settles O10: the numbers are those of the table, and the table has no ninth row (R85). -/
theorem responseCodeNumbers : Obligations.ResponseCodeNumbers := by
  unfold Obligations.ResponseCodeNumbers
  exact ⟨rfl, rfl, rfl, rfl, rfl, rfl, rfl, rfl, respCodeNum_lt⟩

/-! ### The textual form (R100, R102) -/

/-- The number of an operand fits its field, and is read back as that field (R81). -/
theorem fieldOf_toNat {n : Nat} (symbols : List (String × Nat)) (x : BitVec n) :
    fieldOf n symbols (.num x.toNat) = some x := by
  simp [fieldOf, x.isLt]

theorem one_toNat {n : Nat} (symbols : List (String × Nat)) (mk : BitVec n → Instr) (x : BitVec n) :
    one symbols mk (.num x.toNat) = some (mk x) := by
  rw [one, fieldOf_toNat, Option.map_some]

theorem two_toNat {m n : Nat} (symbols : List (String × Nat)) (mk : BitVec m → BitVec n → Instr) (x : BitVec m)
    (y : BitVec n) : two symbols mk (.num x.toNat) (.num y.toNat) = some (mk x y) := by
  rw [two, fieldOf_toNat, fieldOf_toNat, Option.bind_some, Option.map_some]

/-- Settles O5: the mnemonic selects the row of the command, and each operand is read back from its number (R100). -/
theorem textWritesItsCommand : Obligations.TextWritesItsCommand := by
  unfold Obligations.TextWritesItsCommand
  intro i
  cases i with
  | nop | enc | asm | wlen => rfl
  | init x | get x | info x | flen x | rdpulse x | engRev8 x | engCpl8 x | engCpl4 x | engNibp x | engTlutd x
  | engTnibb x | engTfldb x => exact one_toNat _ _ x
  | set x y | capq x y | rdbit x y | engAdd8 x y | engTcodea x y => exact two_toNat _ _ x y

end Sys2Proof.Proofs

/-! ## The state commands as whole states (R110 to R122)

What an operation of `Machine/Ops.lean` leaves is said as the whole next state in `Laws/State.lean`; here the tests of
R310 and the values of R117 and R122 are put in the same form. -/

namespace Sys2Proof.Proofs

open Sys2Proof.Machine

/-! ### The words (R80, R87) -/

/-- The word of a command that does not use `hi`, as a number (R80). -/
theorem toNat_mkWord_hi_zero (op a : BitVec 4) (lo : Byte) :
    (mkWord op a 0 lo).toNat = 0x10000000 * op.toNat + 0x1000000 * a.toNat + lo.toNat := by
  have hhi : (0 : Byte).toNat = 0 := rfl
  rw [toNat_mkWord, hhi]
  omega

/-! ### The errors and the tests of R310 -/

/-- An error other than `ERR_FATAL` changes nothing in the block (R312). -/
theorem raise_eq_failed {e : Err} (he : e ≠ .fatal) (s : State) : raise e s = failed s e := by
  cases e with
  | fatal => exact absurd rfl he
  | type | model | noinst | illegal | range | stale => rfl

/-- An axis operand that names a register passes the first test of R310. -/
theorem withAxis_axisNum (ax : Axis) (s : State) (k : Axis → State) : withAxis (axisNum ax) s k = k ax :=
  withAxis_some k (axisOf_axisNum ax)

/-- Without an appliance the second test of R310 answers `ERR_NOINST` (R305). -/
theorem withInstance_noinst {s : State} (k : Appliance → State) (h : s.block.app = none) :
    withInstance s k = failed s .noinst := by
  rw [withInstance_none k h, raise_eq_failed (by decide)]

/-! ### NOP -/

/-- Settles O11: the meaning of `NOP` is `okay 0`, which answers and keeps the block (R110). -/
theorem nopOnlyAnswers : Obligations.NopOnlyAnswers := by
  unfold Obligations.NopOnlyAnswers
  refine ⟨rfl, fun s => ?_⟩
  rw [exec_eq_runCmd, runCmd, nopCmd, okay_eq_answered]

/-! ### INIT -/

/-- `INIT` of an identifier that is not registered (R302). -/
theorem runCmd_init_unregistered (c : WfConfig) {v : Byte} (hv : 3 < v.toNat) (s : State) :
    runCmd c (.init v) s = failed s .model := by
  rw [runCmd, initCmd, (vendorOf_eq_none v).mpr hv]
  rfl

/-- Settles O12: an identifier above 3 names no vendor; the code of a vendor names it, and `construct` writes the fresh
appliance and clears both valid bits (R111, R302, R343). -/
theorem initConstructsTheInstance : Obligations.InitConstructsTheInstance := by
  unfold Obligations.InitConstructsTheInstance
  intro v s
  refine ⟨toNat_mkWord_hi_zero 1 0 v, fun hv => ?_, ?_⟩
  · rw [exec_eq_runCmd, runCmd_init_unregistered _ hv]
  · rintro w rfl
    rw [exec_eq_runCmd, runCmd_init_vendorCode]
    rfl

/-! ### SET -/

/-- The second test of R310 for `SET` (R305). -/
theorem runCmd_set_noinst (c : WfConfig) (ax : Axis) (x : Byte) {s : State} (h : s.block.app = none) :
    runCmd c (.set (axisNum ax) x) s = failed s .noinst := by
  rw [runCmd, setCmd, withAxis_axisNum, withInstance_noinst _ h]

/-- The zero-value no-op (R113, R114). -/
theorem runCmd_set_zero (c : WfConfig) (ax : Axis) {p : Appliance} {s : State} (hp : s.block.app = some p) :
    runCmd c (.set (axisNum ax) 0) s = okay (zext32 (p.ax.get ax)) s := by
  rw [runCmd, setCmd, withAxis_axisNum, withInstance_some _ hp, if_pos rfl]

/-- A non-zero `SET` whose value the axis refuses (R115). -/
theorem runCmd_set_refused (c : WfConfig) {ax : Axis} {x : Byte} {p : Appliance} {s : State}
    (hp : s.block.app = some p) (hx : x ≠ 0) (hw : settledValue c.val p.vendor ax x = none) :
    runCmd c (.set (axisNum ax) x) s = failed s .type := by
  rw [runCmd, setCmd, withAxis_axisNum, withInstance_some _ hp, if_neg hx, ← raise_eq_failed (by decide)]
  simp only [hw]

/-- The value of a `SET` that is not refused: clamped for the temperature, kept for every other axis (R115, R117). -/
theorem settledValue_of_not_refused {c : Config} {v : Vendor} {ax : Axis} {x : Byte}
    (h : ¬ (ax ≠ .temp ∧ c.dom v ax x = false)) :
    settledValue c v ax x = some (if ax = .temp then clampTemp c v x else x) := by
  unfold settledValue
  by_cases ha : ax = .temp
  · rw [if_pos ha, if_pos ha]
  · have hd : c.dom v ax x = true := by simpa [ha] using h
    rw [if_neg ha, if_neg ha, if_pos hd]

/-- Settles O13: the tests of `SET` in the order of R113, each branch by its own lemma. -/
theorem setWritesOrRefuses : Obligations.SetWritesOrRefuses := by
  unfold Obligations.SetWritesOrRefuses
  intro ax x s
  refine ⟨toNat_mkWord_hi_zero 2 (axisNum ax) x, fun h => ?_, fun p hp => ?_⟩ <;> rw [exec_eq_runCmd]
  · rw [runCmd_set_noinst _ ax x h]
  by_cases hx : x = 0
  · subst hx
    rw [if_pos rfl, runCmd_set_zero _ ax hp]
    rfl
  rw [if_neg hx]
  by_cases hr : ax ≠ .temp ∧ Config.cfg.dom p.vendor ax x = false
  · rw [if_pos hr, runCmd_set_refused _ hp hx (settledValue_eq_none hr.1 hr.2)]
  · rw [if_neg hr, runCmd_set_accepted _ hp hx (settledValue_of_not_refused hr)]
    rfl

/-- With the bounds in order, the clamp is the maximum of the lower bound and the minimum with the upper one (R117). -/
theorem toNat_clampTemp {c : Config} (hc : c.WF) (v : Vendor) (x : Byte) :
    (clampTemp c v x).toNat = max (c.minTemp v).toNat (min (c.maxTemp v).toNat x.toNat) := by
  have horder := hc.temp_order v
  unfold clampTemp
  split
  · omega
  · split <;> omega

/-- Settles O14: no temperature is refused, so the write is accepted with the clamped value (R117). -/
theorem temperatureClamps : Obligations.TemperatureClamps := by
  unfold Obligations.TemperatureClamps
  intro c x s p hp hx
  have hrun : runCmd c (.set 2 x) s =
      emitSave (okay (zext32 (clampTemp c.val p.vendor x)) (writeAxis p .temp (clampTemp c.val p.vendor x) s)) :=
    runCmd_set_accepted c (ax := .temp) hp hx (if_pos rfl)
  rw [hrun]
  exact ⟨_, _, rfl, rfl, toNat_clampTemp c.wf p.vendor x, rfl⟩

/-- Settles O15: what `writeAxis` and `emitSave` write and leave unchanged, field by field (R27, R116). -/
theorem acceptedSetFrame : Obligations.AcceptedSetFrame := by
  unfold Obligations.AcceptedSetFrame
  intro c ax x w s p hp hx hw
  rw [runCmd_set_accepted c hp hx hw]
  refine ⟨{ p with ax := setAxis p.ax ax w }, rfl, rfl, get_setAxis_same p.ax ax w, fun a ha => ?_,
    rfl, rfl, rfl, rfl, rfl⟩
  exact get_setAxis_other p.ax ax a w ha

/-! ### GET and CAPQ -/

/-- Settles O16: the two tests of R310, then the register (R120, R305). -/
theorem getReadsTheAxis : Obligations.GetReadsTheAxis := by
  unfold Obligations.GetReadsTheAxis
  intro ax s
  refine ⟨toNat_mkWord_hi_zero 3 (axisNum ax) 0, fun h => ?_, fun p hp => ?_⟩ <;>
    rw [exec_eq_runCmd, runCmd, getCmd, withAxis_axisNum]
  · rw [withInstance_noinst _ h]
  · rw [withInstance_some _ hp, okay_eq_answered]
    rfl

/-- The answer of the capability registry as response data (R122). -/
theorem bitData_capable (c : Config) (v : Vendor) (ax : Axis) (code : Byte) :
    bitData (capable c v ax code) =
      if ax = .temp then
        (if (c.minTemp v).toNat ≤ code.toNat ∧ code.toNat ≤ (c.maxTemp v).toNat then 1 else 0)
      else if c.dom v ax code = true ∧ code ≠ c.sent v ax then 1 else 0 := by
  by_cases ha : ax = .temp <;> simp [capable, bitData, ha]

/-- Settles O18: the two tests of R310, then the registry's answer (R122, R305). -/
theorem capqAnswersMembership : Obligations.CapqAnswersMembership := by
  unfold Obligations.CapqAnswersMembership
  intro ax code s
  refine ⟨toNat_mkWord_hi_zero 4 (axisNum ax) code, fun h => ?_, fun p hp => ?_⟩ <;>
    rw [exec_eq_runCmd, runCmd, capqCmd, withAxis_axisNum]
  · rw [withInstance_noinst _ h]
  · rw [withInstance_some _ hp, okay_eq_answered, bitData_capable]

end Sys2Proof.Proofs

/-! ## The engines (R140 to R160)

What each engine computes as a number or bit by bit, beside the lemmas of `Laws/Engines.lean`; then the `ENG` commands,
whose answers these are, and the two encoder bytes that an engine alone decides. -/

namespace Sys2Proof.Proofs

open Sys2Proof.Machine

/-! ### The complements and the nibble pack (R142 to R144) -/

/-- `CPL8` as arithmetic (R142). -/
theorem toNat_cpl8 (x : Byte) : (cpl8 x).toNat = 255 - x.toNat := BitVec.toNat_not

/-- `CPL4` as arithmetic (R143). -/
theorem toNat_cpl4 (n : Nib) : (cpl4 n).toNat = 15 - n.toNat := BitVec.toNat_not

/-- `NIBP` as arithmetic (R144). -/
theorem toNat_nibp (n : Nib) : (nibp n).toNat = 16 * n.toNat + (15 - n.toNat) := by
  rw [nibp, toNat_append_mul_add, toNat_cpl4, Nat.mul_comm n.toNat]
  rfl

/-- No byte is its own complement: `x` and `255 - x` have different parities (R142). -/
theorem ne_cpl8 (x : Byte) : x ≠ cpl8 x := by
  intro h
  have hnat : x.toNat = 255 - x.toNat := (congrArg BitVec.toNat h).trans (toNat_cpl8 x)
  omega

/-- The nibble pack is `15 n + 15`, which determines `n` (R144). -/
theorem nibp_injective {m n : Nib} (h : nibp m = nibp n) : m = n := by
  have hnat := congrArg BitVec.toNat h
  rw [toNat_nibp, toNat_nibp] at hnat
  exact BitVec.eq_of_toNat_eq (by omega)

/-- Settles O32: each law read off the complements and the nibble pack as arithmetic (R142 to R144). -/
theorem complementLaws : Obligations.ComplementLaws := by
  unfold Obligations.ComplementLaws
  refine ⟨fun x => ⟨toNat_cpl8 x, BitVec.not_not, BitVec.add_not_self x, ne_cpl8 x⟩, toNat_cpl4,
    fun n => ⟨toNat_nibp n, ?_⟩, fun _ _ => nibp_injective⟩
  rw [toNat_nibp]
  omega

/-! ### Reversal (R140, R141) -/

/-- Reversal and complement act on each bit alone, the one on its place and the other on its value (R141). -/
theorem rev8_cpl8 (x : Byte) : rev8 (cpl8 x) = cpl8 (rev8 x) := by
  refine BitVec.eq_of_getLsbD_eq fun i hi => ?_
  have hplace : 7 - i < 8 := by omega
  rw [getLsbD_rev8 _ i hi, cpl8, cpl8, BitVec.getLsbD_not, BitVec.getLsbD_not, getLsbD_rev8 x i hi]
  simp only [hplace, hi]

/-- Settles O31: an involution is a bijection; the carry of `1 + 1` goes up before reversal and is lost after it
(R141). -/
theorem reversalLaws : Obligations.ReversalLaws := by
  unfold Obligations.ReversalLaws
  have hinvolutive : Function.Involutive rev8 := rev8_rev8
  exact ⟨hinvolutive, rev8_cpl8, hinvolutive.bijective, 1, 1, by decide⟩

/-! ### Checksum arithmetic (R145, R146, R154) -/

/-- `ADD8` as arithmetic (R145). -/
theorem toNat_add8 (y x : Byte) : (add8 y x).toNat = (x.toNat + y.toNat) % 256 := by
  rw [add8, BitVec.toNat_add, Nat.add_comm]

/-- Masking the accumulator at every byte gives the sum of the integers mod 256 (R146). -/
theorem toNat_sum8 (bs : List Byte) : (sum8 bs).toNat = (bs.map BitVec.toNat).sum % 256 := by
  induction bs with
  | nil => rfl
  | cons b bs ih => rw [sum8_cons, BitVec.toNat_add, ih, List.map_cons, List.sum_cons, Nat.add_mod_mod]

/-- The checksum does not depend on the order of the bytes, because the integer sum does not (R146). -/
theorem sum8_perm {bs bs' : List Byte} (h : bs.Perm bs') : sum8 bs = sum8 bs' := by
  apply BitVec.eq_of_toNat_eq
  rw [toNat_sum8, toNat_sum8, (h.map BitVec.toNat).sum_eq]

/-- Settles O33: the recursion is that of the fold; the integer sum is `toNat_sum8`, and a permutation keeps it
(R146). -/
theorem checksumIsTheSumModulo256 : Obligations.ChecksumIsTheSumModulo256 :=
  ⟨sum8_nil, sum8_append_singleton, toNat_sum8, fun _ _ => sum8_perm⟩

/-- Codes in disjoint bits add without a carry, so the sum fits and is the bitwise OR (R154). -/
theorem sum2_of_and_eq_zero {x y : Byte} (h : x &&& y = 0) : sum2 x y = some (x ||| y) := by
  rw [sum2_eq_some, ← BitVec.add_eq_or_of_and_eq_zero x y h]
  exact BitVec.toNat_add_of_and_eq_zero h

/-- Settles O34: the two outcomes of `SUM2`, and the case of disjoint bits, where no carry arises (R154). -/
theorem subFieldSumAborts : Obligations.SubFieldSumAborts := by
  unfold Obligations.SubFieldSumAborts
  exact fun x y => ⟨sum2_eq_none.symm, fun z => sum2_eq_some.mp, sum2_of_and_eq_zero⟩

/-! ### Packing (R147) -/

/-- The first eight bits of a packing are the first byte's, and the packing of the other bytes follows them; so the
place of a bit goes down by eight for each byte passed (R147). -/
theorem pack_getElem? {bytes : List Byte} {n k : Nat} {b : Byte} (hb : bytes[n]? = some b) (hk : k < 8) :
    (pack bytes)[8 * n + k]? = some (b.getLsbD (7 - k)) := by
  induction bytes generalizing n with
  | nil => simp at hb
  | cons b₀ bytes ih =>
    rw [pack_cons]
    cases n with
    | zero =>
      obtain rfl : b₀ = b := by simpa using hb
      rw [Nat.mul_zero, Nat.zero_add, List.getElem?_append_left (by simpa using hk), byteBits_getElem? b₀ k hk]
    | succ n =>
      have hrest : bytes[n]? = some b := by simpa using hb
      have hplace : 8 * (n + 1) + k - (byteBits b₀).length = 8 * n + k := by rw [byteBits_length]; omega
      rw [List.getElem?_append_right (by rw [byteBits_length]; omega), hplace, ih hrest]

/-- Settles O35: the length is `pack_length`, the place of every bit `pack_getElem?` (R147). -/
theorem packPlacesEveryBit : Obligations.PackPlacesEveryBit := by
  unfold Obligations.PackPlacesEveryBit
  exact fun bytes => ⟨pack_length bytes, fun _ _ _ => pack_getElem?⟩

/-! ### The temperature engines (R150 to R153) -/

/-- `TCODE_A` in a thermostat mode (R152). -/
theorem tcodeA_thermo {c : Config} {m : Byte} (h : c.aThermo m = true) (t : Byte) :
    (tcodeA c m t).toNat = 2 * t.toNat % 256 := by
  rw [tcodeA, if_pos h, BitVec.toNat_mul]
  rfl

/-- `TCODE_A` in any other mode does not read the temperature (R152). -/
theorem tcodeA_fixed {c : Config} {m : Byte} (h : c.aThermo m = false) (t : Byte) : tcodeA c m t = c.aFixt m :=
  if_neg (by rw [h]; decide)

/-- `TFIELD_B` as arithmetic: the marker above the nibble (R153). -/
theorem toNat_tfieldB (c : Config) (t : Byte) :
    (tfieldB c t).toNat =
      16 * (if t = c.maxTemp .B then c.bMaxm1.toNat else c.bMaxm0.toNat) + (c.bTnib t).toNat := by
  rw [tfieldB, tnibB, toNat_append_mul_add, apply_ite BitVec.toNat, Nat.mul_comm]
  rfl

/-! ### The temperature byte of vendor A and the temperature nibble of vendor D (R173, R233) -/

/-- The byte at `A_TPOS` is the engine's (R173). -/
theorem aPay_tpos (c : Config) (S : Axes) : aPay c c.aTpos.1 c.aTpos.2 S = tcodeA c S.mode S.temp := if_pos rfl

/-- A valid temperature is at most 127, so the doubling of vendor A does not wrap (R24, R152). -/
theorem tcodeA_thermo_of_valid {c : Config} {S : Axes} (hc : c.WF) (hS : c.ValidAxes .A S)
    (h : c.aThermo S.mode = true) : (tcodeA c S.mode S.temp).toNat = 2 * S.temp.toNat := by
  have hmax := hS.maxTemp
  have hle := hc.temp_le .A
  rw [tcodeA_thermo h]
  omega

/-- Settles O40: the byte is `TCODE_A` of the mode and the temperature, and COOL is a thermostat mode (R152, R171,
R173). -/
theorem vendorATemperatureByte : Obligations.VendorATemperatureByte := by
  unfold Obligations.VendorATemperatureByte
  intro c S hc hS
  rw [aPay_tpos]
  refine ⟨tcodeA_thermo_of_valid hc hS, fun h => tcodeA_fixed h S.temp, fun hmode htemp => ?_⟩
  have hcool : c.aThermo S.mode = true := hmode ▸ hc.a_cool
  apply BitVec.eq_of_toNat_eq
  rw [tcodeA_thermo_of_valid hc hS hcool, htemp]
  rfl

/-- The nibble at `D_TPOS` is the table's (R233). -/
theorem dNib_tpos (c : Config) (S : Axes) : dNib c c.dTpos S = c.tlutD S.temp := if_pos rfl

/-- Every other data nibble is `D_REST` (R233). -/
theorem dNib_other {c : Config} {i : Nat} (h : i ≠ c.dTpos) (S : Axes) : dNib c i S = c.dRest i S := if_neg h

/-- The main frame of vendor D reads the state through its data nibbles only (R234, R236). -/
theorem dMain_congr {c : Config} {S S' : Axes} (h : ∀ i, dNib c i S = dNib c i S') : dMain c S = dMain c S' := by
  simp only [dMain, h]

/-- The two frames of vendor D (R237, R239). -/
theorem encodeFrames_D (c : Config) (S : Axes) :
    encodeFrames c .D S = some [pack (dMain c S), pack (dFooter c S)] := rfl

/-- Settles O45: both temperatures have the table entry 0, and by hypothesis the other nibbles agree (R150, R233). -/
theorem vendorDSixteenAndSeventeen : Obligations.VendorDSixteenAndSeventeen := by
  unfold Obligations.VendorDSixteenAndSeventeen
  intro c S hc hrest
  obtain ⟨h16, h17⟩ := hc.tlut
  have hnib16 : dNib c c.dTpos { S with temp := 16 } = 0 := (dNib_tpos c _).trans h16
  have hnib17 : dNib c c.dTpos { S with temp := 17 } = 0 := (dNib_tpos c _).trans h17
  have hmain : dMain c { S with temp := 16 } = dMain c { S with temp := 17 } := by
    refine dMain_congr fun i => ?_
    by_cases hi : i = c.dTpos
    · rw [hi, hnib16, hnib17]
    · rw [dNib_other hi, dNib_other hi, hrest i hi]
  exact ⟨hnib16, hnib17, _, _, _, encodeFrames_D c _, by rw [hmain]; exact encodeFrames_D c _⟩

/-! ### The ENG commands (R89, R160) -/

/-- The word of an `ENG` command with sub-opcode `a` (R89). -/
theorem toNat_engWord (a : BitVec 4) (y x : Byte) :
    (mkWord 0xC a y x).toNat = 0xC0000000 + 0x1000000 * a.toNat + 256 * y.toNat + x.toNat := by
  have hop : (0xC : BitVec 4).toNat = 12 := rfl
  rw [toNat_mkWord, hop]
  omega

/-- The word of an `ENG` command on a nibble, whose upper field bits are 0 (R81, R89). -/
theorem toNat_engNibbleWord (a : BitVec 4) (x : Nib) :
    (mkWord 0xC a 0 (x.setWidth 8)).toNat = 0xC0000000 + 0x1000000 * a.toNat + x.toNat := by
  have hx : (x.setWidth 8).toNat = x.toNat := BitVec.toNat_setWidth_of_le (by decide)
  rw [toNat_engWord, hx]
  rfl

/-- A command whose meaning is to answer `r` leaves the block and the event trace as they are (R160). -/
theorem exec_of_okay {n : Nat} {i : Instr} {s : State} {r : BitVec n}
    (hrun : runCmd Config.given i s = okay (zext32 r) s) :
    exec i s = .next (answered s .okay (BitVec.ofNat 32 r.toNat) false s.block) := by
  rw [exec_eq_runCmd, hrun, okay_eq_answered, BitVec.ofNat_toNat, zext32]

/-- Settles O29: each command answers its engine's result, here as a number or bit by bit (R140 to R145, R160). -/
theorem engByteEngines : Obligations.EngByteEngines := by
  unfold Obligations.EngByteEngines
  refine ⟨fun x s => ⟨toNat_engWord 0 0 x, rev8 x, getLsbD_rev8 x, ?_⟩, fun x s => ⟨toNat_engWord 1 0 x, ?_⟩,
    fun x s => ⟨toNat_engNibbleWord 2 x, ?_⟩, fun x s => ⟨toNat_engNibbleWord 3 x, ?_⟩,
    fun y x s => ⟨toNat_engWord 4 y x, ?_⟩⟩
  · rw [exec_of_okay (r := rev8 x) rfl, BitVec.ofNat_toNat]
  · rw [exec_of_okay (r := cpl8 x) rfl, toNat_cpl8]
  · rw [exec_of_okay (r := cpl4 x) rfl, toNat_cpl4]
  · rw [exec_of_okay (r := nibp x) rfl, toNat_nibp]
  · rw [exec_of_okay (r := add8 y x) rfl, toNat_add8]

/-- The answer of `ENG.TCODEA` by the kind of the mode (R152). -/
theorem ofNat_toNat_tcodeA (c : Config) (m t : Byte) :
    BitVec.ofNat 32 (tcodeA c m t).toNat =
      if c.aThermo m then BitVec.ofNat 32 (2 * t.toNat % 256) else (c.aFixt m).setWidth 32 := by
  cases h : c.aThermo m with
  | true => rw [tcodeA_thermo h, if_pos rfl]
  | false => rw [tcodeA_fixed h, BitVec.ofNat_toNat, if_neg Bool.false_ne_true]

/-- Settles O30: each command answers its engine's result, read from the tables of the configuration whatever the
appliance (R150 to R153, R160). -/
theorem engTableEngines : Obligations.EngTableEngines := by
  unfold Obligations.EngTableEngines
  refine ⟨fun x s => ⟨toNat_engWord 5 0 x, ?_⟩, fun x s => ⟨toNat_engWord 6 0 x, ?_⟩,
    fun y x s => ⟨toNat_engWord 7 y x, ?_⟩, fun x s => ⟨toNat_engWord 8 0 x, ?_⟩⟩
  · rw [exec_of_okay (r := Config.cfg.tlutD x) rfl, BitVec.ofNat_toNat]
  · rw [exec_of_okay (r := Config.cfg.bTnib x) rfl, BitVec.ofNat_toNat]
  · rw [exec_of_okay (r := tcodeA Config.cfg y x) rfl, ofNat_toNat_tcodeA]
  · rw [exec_of_okay (r := tfieldB Config.cfg x) rfl, toNat_tfieldB]

end Sys2Proof.Proofs

/-! ## When an encoding is answered `OKAY` (R219, R346)

Only vendor C can abort, and it does when one of its two sub-field sums does not fit; `ENC` and `ASM` answer `OKAY` on
every encoding that does not abort. -/

namespace Sys2Proof.Proofs

open Sys2Proof.Machine

theorem sum2_ne_none {x y : Byte} : sum2 x y ≠ none ↔ x.toNat + y.toNat ≤ 255 := by
  rw [Ne, sum2_eq_none, Nat.not_lt]

/-- The body of vendor C is built from both sums, so each of them has to fit (R212). -/
theorem cBytes_ne_none (c : Config) (S : Axes) :
    cBytes c S ≠ none ↔ sum2 (c.cFan1 S) (c.cFan2 S) ≠ none ∧ sum2 (c.cExt1 S) (c.cExt2 S) ≠ none := by
  rw [cBytes]
  cases sum2 (c.cFan1 S) (c.cFan2 S) with
  | none => simp
  | some fan => simp

/-- Which encodings do not abort (R179, R199, R219, R239). -/
theorem encodeFrames_ne_none (c : Config) (v : Vendor) (S : Axes) :
    encodeFrames c v S ≠ none ↔ v ≠ .C ∨
      ((c.cFan1 S).toNat + (c.cFan2 S).toNat ≤ 255 ∧ (c.cExt1 S).toNat + (c.cExt2 S).toNat ≤ 255) := by
  by_cases hv : v = .C
  · subst hv
    have hbody : encodeFrames c .C S ≠ none ↔ cBytes c S ≠ none := by
      rw [encodeFrames, encodeC_eq, Ne, Option.map_eq_none_iff]
    rw [hbody, cBytes_ne_none, sum2_ne_none, sum2_ne_none]
    simp only [ne_eq, not_true_eq_false, false_or]
  · exact iff_of_true (fun h => hv (encodeFrames_eq_none c S h)) (.inl hv)

/-- With an appliance, a command that encodes and then latches answers `OKAY` exactly on the encodings that do not abort;
it is enough that the latch answers `OKAY` (R253, R281). -/
theorem encodeThen_resp {c : WfConfig} {latch : Appliance → List Frame → State → State} {s : State} {p : Appliance}
    (hlatch : ∀ fs, ∃ d, (latch p fs s).port.resp = some { code := .okay, data := d }) (hp : s.block.app = some p) :
    ∃ r, (encodeThen c latch s).port.resp = some r ∧
      (r.code = .okay ↔ encodeFrames c.val p.vendor p.ax ≠ none) := by
  cases he : encodeFrames c.val p.vendor p.ax with
  | none =>
    rw [encodeThen_aborted hp he]
    exact ⟨{ code := .err .fatal, data := 0 }, rfl, by simp⟩
  | some fs =>
    obtain ⟨d, hd⟩ := hlatch fs
    rw [encodeThen_encoded hp he]
    exact ⟨{ code := .okay, data := d }, hd, by simp⟩

/-- Settles O22: both commands encode and then latch, so both answer `OKAY` exactly when the encoding does not abort
(R303, R346). -/
theorem encodingRespondsOkay : Obligations.EncodingRespondsOkay := by
  unfold Obligations.EncodingRespondsOkay
  intro s p hp
  obtain ⟨ct, hct, hokEnc⟩ := encodeThen_resp (c := Config.given) (latch := latchAfterEnc)
    (fun _ => ⟨_, rfl⟩) hp
  obtain ⟨cu, hcu, hokAsm⟩ := encodeThen_resp (c := Config.given) (latch := latchAfterAsm Config.given)
    (fun _ => ⟨_, rfl⟩) hp
  exact ⟨_, _, ct, cu, exec_eq_runCmd .enc s, exec_eq_runCmd .asm s, hct, hcu,
    hokEnc.trans (encodeFrames_ne_none Config.cfg p.vendor p.ax), hokAsm.trans hokEnc.symm⟩

end Sys2Proof.Proofs

/-! ## The blocks of vendor A (R170 to R181)

What stands at each of the twenty places of a block, and how a place of the frame is read from it; the statements about
the checksum and about the power axis are derived from these. -/

namespace Sys2Proof.Proofs

open Sys2Proof.Machine

/-- The twenty logical bytes `L(k)`, without the representation check that every byte passes (R149, R176). -/
def aBlock (c : Config) (k : Fin 2) (S : Axes) : List Byte := aHeader c k ++ aPayload c k S ++ [aSum c k S]

/-- The transmitted block: every byte reversed, then packed (R177). -/
def aSent (c : Config) (k : Fin 2) (S : Axes) : Frame := pack ((aBlock c k S).map rev8)

theorem aLogical_eq_aBlock (c : Config) (k : Fin 2) (S : Axes) : aLogical c k S = some (aBlock c k S) :=
  aLogical_eq c S k

/-- The two frames of vendor A (R179). -/
theorem encodeFrames_A (c : Config) (S : Axes) : encodeFrames c .A S = some [aSent c 0 S, aSent c 1 S] :=
  encodeA_eq c S

/-! ### The places of a block (R176) -/

section
variable (c : Config) (k : Fin 2) (S : Axes)

theorem aBlock_length : (aBlock c k S).length = 20 := by simp [aBlock]

theorem aSent_length : (aSent c k S).length = 160 := by
  rw [aSent, pack_length, List.length_map, aBlock_length]

theorem aPayload_getElem? (j : Fin 16) : (aPayload c k S)[j.val]? = some (aPay c k j S) := by
  rw [aPayload, List.getElem?_ofFn, dif_pos j.isLt]

theorem aBlock_header (i : Fin 3) : (aBlock c k S)[i.val]? = some (c.aHdr k i) := by
  rw [aBlock, List.append_assoc, List.getElem?_append_left (by simp), aHeader, List.getElem?_ofFn, dif_pos i.isLt]

theorem aBlock_payload (j : Fin 16) : (aBlock c k S)[3 + j.val]? = some (aPay c k j S) := by
  rw [aBlock, List.getElem?_append_left (by simp; omega), List.getElem?_append_right (by simp), aHeader_length,
    Nat.add_sub_cancel_left, aPayload_getElem?]

theorem aBlock_checksum : (aBlock c k S)[19]? = some (aSum c k S) := by
  rw [aBlock, List.getElem?_append_right (by simp)]
  simp

/-- The bytes before the checksum are the header and the payload (R176). -/
theorem aBlock_take : (aBlock c k S).take 19 = aHeader c k ++ aPayload c k S :=
  List.take_left' (by simp)

/-- The checksum byte is the sum of the bytes it is over, as they stand in the block (R175). -/
theorem aBlock_checksum_eq_sum8 : (aBlock c k S)[19]? =
    some (sum8 (if c.aCkHdr then (aBlock c k S).take 19 else ((aBlock c k S).take 19).drop 3)) := by
  rw [aBlock_checksum, aBlock_take, List.drop_left' (aHeader_length c k), apply_ite sum8, aSum]

end

/-- The places of a block: three of the header, sixteen of the payload, and the checksum (R176). -/
theorem aBlock_place_cases {n : Nat} (hn : n < 20) :
    (∃ i : Fin 3, n = i.val) ∨ (∃ j : Fin 16, n = 3 + j.val) ∨ n = 19 := by
  by_cases hheader : n < 3
  · exact .inl ⟨⟨n, hheader⟩, rfl⟩
  · by_cases hpayload : n < 19
    · exact .inr (.inl ⟨⟨n - 3, by omega⟩, by simp only; omega⟩)
    · exact .inr (.inr (by omega))

/-! ### The bits of a block (R177) -/

/-- Reversed and then packed most significant bit first, a byte is sent least significant bit first (R177). -/
theorem pack_map_rev8_getElem? {bytes : List Byte} {n i : Nat} {b : Byte} (hb : bytes[n]? = some b) (hi : i < 8) :
    (pack (bytes.map rev8))[8 * n + i]? = some (b.getLsbD i) := by
  have hrev : (bytes.map rev8)[n]? = some (rev8 b) := by rw [List.getElem?_map, hb, Option.map_some]
  have hplace : 7 - (7 - i) = i := by omega
  rw [pack_getElem? hrev hi, getLsbD_rev8 b (7 - i) (by omega), hplace]

/-- Settles O37: the logical bytes place by place, and the frame read through `pack_map_rev8_getElem?` (R172 to
R177). -/
theorem vendorABytesInOrder : Obligations.VendorABytesInOrder := by
  unfold Obligations.VendorABytesInOrder
  intro c S
  refine ⟨fun k => aSent c k S, fun k => aBlock c k S, encodeFrames_A c S, fun k => ?_⟩
  exact ⟨aBlock_length c k S, aSent_length c k S, aBlock_header c k S, aBlock_payload c k S,
    aBlock_checksum_eq_sum8 c k S, fun _ _ _ => pack_map_rev8_getElem?⟩

/-! ### The checksum of a block (R175, R180) -/

/-- Settles O38: the transmitted bytes are the reversed logical bytes, and reversal is its own inverse (R141, R180). -/
theorem vendorAChecksumProperty : Obligations.VendorAChecksumProperty := by
  unfold Obligations.VendorAChecksumProperty
  intro c S fs k he
  have hframes : [aSent c 0 S, aSent c 1 S] = fs := Option.some.inj ((encodeFrames_A c S).symm.trans he)
  have hframe : fs[k.val]? = some (aSent c k S) := by
    rw [← hframes]
    match k with
    | 0 => rfl
    | 1 => rfl
  have hunreversed : ((aBlock c k S).map rev8).map rev8 = aBlock c k S := by simp [Function.comp_def]
  exact ⟨aBlock c k S, _, aLogical_eq_aBlock c k S, hframe, aBlock_length c k S, hunreversed,
    aBlock_checksum_eq_sum8 c k S⟩

/-- A checksum notices every change at a single place: byte lists that agree at every place but one, and in their
checksums, agree (R146). -/
theorem eq_of_sum8_eq {bs bs' : List Byte} (hlen : bs.length = bs'.length) (i : Nat)
    (hother : ∀ n, n ≠ i → bs[n]? = bs'[n]?) (hsum : sum8 bs = sum8 bs') : bs = bs' := by
  induction bs generalizing bs' i with
  | nil => exact (List.eq_nil_of_length_eq_zero hlen.symm).symm
  | cons b bs ih =>
    cases bs' with
    | nil => simp at hlen
    | cons b' bs' =>
      rw [sum8_cons, sum8_cons] at hsum
      cases i with
      | zero =>
        have htail : bs = bs' := List.ext_getElem? fun n => by simpa using hother (n + 1) (by omega)
        rw [htail] at hsum ⊢
        rw [add_right_cancel hsum]
      | succ i =>
        have hhead : b = b' := by simpa using hother 0 (by omega)
        rw [hhead] at hsum ⊢
        have htail : ∀ n, n ≠ i → bs[n]? = bs'[n]? := fun n hn => by
          simpa using hother (n + 1) (by omega)
        rw [ih (by simpa using hlen) i htail (add_left_cancel hsum)]

/-- The header is the same in every state, so the checksum tells two states apart exactly when the sum over the payload
does, whichever bytes it is over (R175). -/
theorem aSum_eq_iff (c : Config) (k : Fin 2) (S S' : Axes) :
    aSum c k S = aSum c k S' ↔ sum8 (aPayload c k S) = sum8 (aPayload c k S') := by
  cases h : c.aCkHdr with
  | true => simp [aSum, h]
  | false => simp [aSum, h]

/-! ### The power axis in a block (R171, R181) -/

section
variable {c : Config} {S : Axes}

/-- The power/mode byte, which is not the temperature byte (R171, R174). -/
theorem aPay_pmpos (hc : c.WF) (S : Axes) :
    aPay c c.aPmpos.1 c.aPmpos.2 S = c.aPm S.power S.mode := by
  rw [aPay, if_neg hc.a_pos, if_pos rfl]

/-- No payload byte but the power/mode byte reads the power axis (R171). -/
theorem aPay_setPower (hc : c.WF) {k : Fin 2} {j : Fin 16} (h : (k, j) ≠ c.aPmpos) (x : Byte) :
    aPay c k j { S with power := x } = aPay c k j S := by
  rw [aPay, aPay, if_neg h, if_neg h, hc.a_rest]

/-- ON and OFF are told apart by the power/mode byte alone (R171). -/
theorem aPay_on_ne_off_iff (hc : c.WF) (hmode : c.dom .A .mode S.mode = true) (k : Fin 2) (j : Fin 16) :
    aPay c k j { S with power := c.aPowerOn } ≠ aPay c k j { S with power := c.aPowerOff } ↔
      (k, j) = c.aPmpos := by
  by_cases h : (k, j) = c.aPmpos
  · obtain ⟨rfl, rfl⟩ := Prod.ext_iff.mp h
    rw [aPay_pmpos hc, aPay_pmpos hc]
    exact iff_of_true (hc.a_pm S.mode hmode) rfl
  · rw [aPay_setPower hc h c.aPowerOn, aPay_setPower hc h c.aPowerOff]
    exact iff_of_false (fun hne => hne rfl) h

/-- So a payload reads the power axis at the place of the power/mode byte only (R171). -/
theorem aPayload_setPower (hc : c.WF) {k : Fin 2} {n : Nat} (h : k ≠ c.aPmpos.1 ∨ n ≠ c.aPmpos.2.val) (x : Byte) :
    (aPayload c k { S with power := x })[n]? = (aPayload c k S)[n]? := by
  by_cases hn : n < 16
  · have hplace : (k, (⟨n, hn⟩ : Fin 16)) ≠ c.aPmpos := by
      intro heq
      exact h.elim (· (congrArg Prod.fst heq)) (· (congrArg (fun q => q.2.val) heq))
    have hget : ∀ S', (aPayload c k S')[n]? = some (aPay c k ⟨n, hn⟩ S') :=
      fun S' => aPayload_getElem? c k S' ⟨n, hn⟩
    rw [hget, hget, aPay_setPower hc hplace]
  · rw [List.getElem?_eq_none (by simp; omega), List.getElem?_eq_none (by simp; omega)]

/-- The checksum of the block of the power/mode byte tells ON from OFF, because no other byte it is over changes; the
other block has the same payload in both (R181). -/
theorem aSum_on_ne_off_iff (hc : c.WF) (hmode : c.dom .A .mode S.mode = true) (k : Fin 2) :
    aSum c k { S with power := c.aPowerOn } ≠ aSum c k { S with power := c.aPowerOff } ↔ k = c.aPmpos.1 := by
  have hother : ∀ n, k ≠ c.aPmpos.1 ∨ n ≠ c.aPmpos.2.val →
      (aPayload c k { S with power := c.aPowerOn })[n]? = (aPayload c k { S with power := c.aPowerOff })[n]? :=
    fun n h => (aPayload_setPower hc h c.aPowerOn).trans (aPayload_setPower hc h c.aPowerOff).symm
  rw [Ne, aSum_eq_iff]
  constructor
  · intro hsum
    by_contra hk
    exact hsum (congrArg sum8 (List.ext_getElem? fun n => hother n (.inl hk)))
  · intro hk hsum
    have hpay := eq_of_sum8_eq (by simp) c.aPmpos.2.val (fun n hn => hother n (.inr hn)) hsum
    have hbyte := congrArg (·[c.aPmpos.2.val]?) hpay
    simp only [aPayload_getElem?, Option.some.injEq] at hbyte
    exact (aPay_on_ne_off_iff hc hmode k c.aPmpos.2).mpr (Prod.ext hk rfl) hbyte

end

/-- Settles O39: place by place, the header is constant, the payload is `aPay_on_ne_off_iff` and the checksum
`aSum_on_ne_off_iff` (R181). -/
theorem vendorAPowerProperty : Obligations.VendorAPowerProperty := by
  unfold Obligations.VendorAPowerProperty
  intro c S hc hon _ k L L' hL hL'
  have hmode : c.dom .A .mode S.mode = true := hon.dom .mode (by decide)
  obtain rfl := Option.some.inj ((aLogical_eq_aBlock c k _).symm.trans hL)
  obtain rfl := Option.some.inj ((aLogical_eq_aBlock c k _).symm.trans hL')
  refine ⟨aBlock_length c k _, aBlock_length c k _, fun n hn => ?_⟩
  rcases aBlock_place_cases hn with ⟨i, rfl⟩ | ⟨j, rfl⟩ | rfl
  · rw [aBlock_header, aBlock_header]
    exact iff_of_false (fun hne => hne rfl) (by omega)
  · rw [aBlock_payload, aBlock_payload, Ne, Option.some.injEq, ← Ne, aPay_on_ne_off_iff hc hmode,
      Prod.ext_iff, Fin.ext_iff (a := j)]
    exact and_congr_right fun _ => by omega
  · rw [aBlock_checksum, aBlock_checksum, Ne, Option.some.injEq, ← Ne, aSum_on_ne_off_iff hc hmode]
    exact (and_iff_left (.inr rfl)).symm

end Sys2Proof.Proofs

/-! ## The frame of vendor B (R190 to R200)

The frame is a packing of literals, as they are sent, each followed by its complement; what holds of any such packing
comes first. Then the bits of the literal that holds the temperature field. -/

namespace Sys2Proof.Proofs

open Sys2Proof.Machine

/-! ### Bytes paired with their complements (R142, R196) -/

/-- Each byte, then its complement (R196). -/
def complementPairs (bs : List Byte) : List Byte := bs.flatMap fun b => [b, cpl8 b]

@[simp] theorem complementPairs_cons (b : Byte) (bs : List Byte) :
    complementPairs (b :: bs) = b :: cpl8 b :: complementPairs bs := rfl

/-- Reversal and complement commute, so reversed pairs are pairs of the reversed bytes (R141). -/
theorem map_rev8_complementPairs (bs : List Byte) :
    (complementPairs bs).map rev8 = complementPairs (bs.map rev8) := by
  induction bs with
  | nil => rfl
  | cons b bs ih => simp [ih, rev8_cpl8]

theorem complementPairs_getElem? {bs : List Byte} {n : Nat} {b : Byte} (hb : bs[n]? = some b) :
    (complementPairs bs)[2 * n]? = some b ∧ (complementPairs bs)[2 * n + 1]? = some (cpl8 b) := by
  induction bs generalizing n with
  | nil => simp at hb
  | cons b₀ bs ih =>
    cases n with
    | zero =>
      obtain rfl : b₀ = b := by simpa using hb
      exact ⟨rfl, rfl⟩
    | succ n => exact ih (by simpa using hb)

theorem getLsbD_cpl8 (x : Byte) {i : Nat} (hi : i < 8) : (cpl8 x).getLsbD i = !x.getLsbD i := by
  simp [cpl8, hi]

/-- Byte `n` takes sixteen bits of the packed pairs: its own, then their complements (R147, R196). -/
theorem pack_complementPairs_getElem? {bs : List Byte} {n k : Nat} {b : Byte} (hb : bs[n]? = some b) (hk : k < 8) :
    (pack (complementPairs bs))[16 * n + k]? = some (b.getLsbD (7 - k)) ∧
    (pack (complementPairs bs))[16 * n + 8 + k]? = some (!b.getLsbD (7 - k)) := by
  obtain ⟨hbyte, hcomplement⟩ := complementPairs_getElem? hb
  have hplace : 16 * n + k = 8 * (2 * n) + k := by omega
  have hplace' : 16 * n + 8 + k = 8 * (2 * n + 1) + k := by omega
  rw [hplace, hplace', pack_getElem? hbyte hk, pack_getElem? hcomplement hk, getLsbD_cpl8 b (by omega)]
  exact ⟨rfl, rfl⟩

theorem byteBits_cpl8 (b : Byte) : byteBits (cpl8 b) = (byteBits b).map (!·) := by
  simp [byteBits, cpl8]

/-- The ones of the complement are the zeros of the byte, so the two have eight ones together (R142). -/
theorem count_byteBits_cpl8 (b : Byte) : (byteBits b).count true + (byteBits (cpl8 b)).count true = 8 := by
  have hzeros : (byteBits (cpl8 b)).count true = (byteBits b).count false := by
    rw [byteBits_cpl8]
    exact List.count_map_of_injective _ _ Bool.not_injective false
  rw [hzeros, List.count_true_add_count_false, byteBits_length]

/-- Half of the bits of packed pairs are ones (R200). -/
theorem count_pack_complementPairs (bs : List Byte) : (pack (complementPairs bs)).count true = 8 * bs.length := by
  induction bs with
  | nil => rfl
  | cons b bs ih =>
    have hpair := count_byteBits_cpl8 b
    simp only [complementPairs_cons, pack_cons, List.count_append, ih, List.length_cons]
    omega

/-! ### The frame in pairs (R196 to R199) -/

section
variable (c : Config) (S : Axes)

/-- Literal `j` in the configured bit order (R54, R197). -/
def bSentLit (j : Nat) : Byte := if c.bLsbFirst then rev8 (bLit c j S) else bLit c j S

/-- The literals in the configured bit order, in the order they are sent (R196, R197). -/
def bSentLits : List Byte := (List.range c.bNp).map fun n => bSentLit c S (n + 1)

theorem bSentLits_length : (bSentLits c S).length = c.bNp := by simp [bSentLits]

theorem bSentLits_getElem? {n : Nat} (hn : n < c.bNp) : (bSentLits c S)[n]? = some (bSentLit c S (n + 1)) := by
  rw [bSentLits, List.getElem?_map, List.getElem?_range hn, Option.map_some]

/-- Bit `7-k` of a byte is sent at place `k`, and `REV8` puts bit `k` there (R52, R54). -/
theorem getLsbD_bSentLit (j : Nat) {k : Nat} (hk : k < 8) :
    (bSentLit c S j).getLsbD (7 - k) = (bLit c j S).getLsbD (if c.bLsbFirst then k else 7 - k) := by
  cases h : c.bLsbFirst with
  | true =>
    have hplace : 7 - (7 - k) = k := by omega
    simp [bSentLit, h, getLsbD_rev8 _ (7 - k) (by omega), hplace]
  | false => simp [bSentLit, h]

/-- In either bit order the transmitted bytes are the literals and their complements (R196, R197). -/
theorem bTransmitted_eq_complementPairs : bTransmitted c S = complementPairs (bSentLits c S) := by
  have hlogical : bLogical c S = complementPairs ((List.range c.bNp).map fun n => bLit c (n + 1) S) := by
    rw [bLogical, complementPairs, List.flatMap_map]
  cases h : c.bLsbFirst with
  | true =>
    simp [bTransmitted, h, hlogical, map_rev8_complementPairs, bSentLits, bSentLit, Function.comp_def]
  | false => simp [bTransmitted, h, hlogical, bSentLits, bSentLit]

/-- The transmitted frame (R197, R199). -/
def bSent : Frame := pack (complementPairs (bSentLits c S))

/-- The one frame of vendor B (R199). -/
theorem encodeFrames_B : encodeFrames c .B S = some [bSent c S] := by
  rw [bSent, ← bTransmitted_eq_complementPairs]
  rfl

theorem bSent_length : (bSent c S).length = 16 * c.bNp := by
  rw [bSent, ← bTransmitted_eq_complementPairs, pack_length, bTransmitted_length]
  omega

/-- The sixteen bits of literal `n + 1` and its complement (R196, R197). -/
theorem bSent_getElem? {n k : Nat} (hn : n < c.bNp) (hk : k < 8) :
    (bSent c S)[16 * n + k]? = some ((bLit c (n + 1) S).getLsbD (if c.bLsbFirst then k else 7 - k)) ∧
    (bSent c S)[16 * n + 8 + k]? = some (!(bLit c (n + 1) S).getLsbD (if c.bLsbFirst then k else 7 - k)) := by
  rw [← getLsbD_bSentLit c S (n + 1) hk]
  exact pack_complementPairs_getElem? (bSentLits_getElem? c S hn) hk

/-- Half of the bits are ones (R200). -/
theorem count_bSent : (bSent c S).count true = 8 * c.bNp := by
  rw [bSent, count_pack_complementPairs, bSentLits_length]

end

/-- Settles O41: each literal and its complement are `bSent_getElem?`, with literals counted from 1; half of the bits
are ones by `count_bSent` (R196 to R200). -/
theorem vendorBComplementProperty : Obligations.VendorBComplementProperty := by
  unfold Obligations.VendorBComplementProperty
  intro c S
  refine ⟨bSent c S, encodeFrames_B c S, bSent_length c S, ?literals, ?pairs, count_bSent c S⟩
  case literals =>
    intro j k hj hnp hk
    obtain ⟨n, rfl⟩ : ∃ n, j = n + 1 := Nat.exists_eq_add_of_le' hj
    exact bSent_getElem? c S hnp hk
  case pairs =>
    intro j k hj hk
    obtain ⟨hliteral, hcomplement⟩ := bSent_getElem? c S hj hk
    rw [hliteral, hcomplement, Option.map_some]

/-! ### The temperature in the literals (R192, R195) -/

/-- The mask of the temperature field: six ones (R195). -/
theorem getLsbD_fieldMask (i : Nat) : (0x3F#8).getLsbD i = decide (i < 6) := by
  have hmask : 0x3F#8 = (BitVec.allOnes 6).setWidth 8 := by decide
  rw [hmask, BitVec.getLsbD_setWidth, BitVec.getLsbD_allOnes, Bool.and_eq_right_iff_imp, decide_eq_true_eq,
    decide_eq_true_eq]
  omega

section
variable (c : Config)

/-- The field is in its six bits, and `B_REST` in the other two (R195). -/
theorem getLsbD_bFieldByte (rest t : Byte) (i : Nat) :
    (bFieldByte c rest t).getLsbD i =
      if c.bTflsb.val ≤ i ∧ i < c.bTflsb.val + 6 then (tfieldB c t).getLsbD (i - c.bTflsb.val)
      else rest.getLsbD i := by
  have hlsb := c.bTflsb.isLt
  by_cases hbyte : i < 8
  · rw [bFieldByte, BitVec.getLsbD_or, BitVec.getLsbD_and, BitVec.getLsbD_not, BitVec.getLsbD_shiftLeft,
      getLsbD_fieldMask, BitVec.getLsbD_shiftLeft, BitVec.getLsbD_setWidth]
    by_cases hbelow : i < c.bTflsb.val
    · simp [hbyte, hbelow, Nat.not_le_of_lt hbelow]
    have hfrom : c.bTflsb.val ≤ i := Nat.le_of_not_lt hbelow
    by_cases hfield : i < c.bTflsb.val + 6
    · simp [hbyte, hbelow, hfrom, hfield, show i - c.bTflsb.val < 6 by omega, show i - c.bTflsb.val < 8 by omega]
    · have habove : 6 ≤ i - c.bTflsb.val := by omega
      simp [hbyte, hbelow, hfield, Nat.not_lt_of_le habove, BitVec.getLsbD_of_ge _ _ habove]
  · have hge : 8 ≤ i := Nat.le_of_not_lt hbyte
    rw [BitVec.getLsbD_of_ge _ _ hge, if_neg (by omega), BitVec.getLsbD_of_ge _ _ hge]

/-- `TFIELD_B` bit by bit: the nibble below, the is-max marker above (R153). -/
theorem getLsbD_tfieldB (t : Byte) (i : Nat) :
    (tfieldB c t).getLsbD i = if i < 4 then (c.bTnib t).getLsbD i
      else (if t = c.maxTemp .B then c.bMaxm1 else c.bMaxm0).getLsbD (i - 4) := by
  rw [tfieldB, BitVec.getLsbD_append]
  rfl

variable (S : Axes)

theorem bLit_five : bLit c 5 S = if S.temp = c.minTemp .B then c.bTmarkMin else c.bRest 5 S := if_pos rfl

theorem bLit_tfpos (h : c.bTfpos ≠ 5) : bLit c c.bTfpos S = bFieldByte c (c.bRest c.bTfpos S) S.temp := by
  rw [bLit, if_neg h, if_pos rfl]

theorem bLit_other {j : Nat} (h5 : j ≠ 5) (htf : j ≠ c.bTfpos) : bLit c j S = c.bRest j S := by
  rw [bLit, if_neg h5, if_neg htf]

end

/-- Settles O42: literal by literal, and bit by bit in the literal of the temperature field; the marker byte is
distinct in a well-formed configuration (R191, R192, R195). -/
theorem vendorBTemperatureRules : Obligations.VendorBTemperatureRules := by
  unfold Obligations.VendorBTemperatureRules
  intro c S hc hS
  obtain ⟨_, _, htf⟩ := hc.b_tfpos
  rw [bLit_five, bLit_tfpos c S htf]
  simp only [getLsbD_bFieldByte, getLsbD_tfieldB]
  refine ⟨fun hmin => if_pos hmin, fun hmin => ?marker, fun k hk => ?nibble, fun k hk => ?isMax, fun k hk => ?kept,
    fun j => bLit_other c S⟩
  case marker =>
    rw [if_neg hmin]
    exact ⟨rfl, hc.b_tmark S hS hmin⟩
  case nibble =>
    rw [if_pos (by omega), Nat.add_sub_cancel_left, if_pos hk]
  case isMax =>
    have hplace : c.bTflsb.val + 4 + k - c.bTflsb.val = 4 + k := by omega
    rw [if_pos (by omega), hplace, if_neg (by omega), Nat.add_sub_cancel_left]
  case kept => rw [if_neg (by omega)]

end Sys2Proof.Proofs

/-! ## The frame of vendor C (R210 to R220)

The body place by place, then the two parts of the frame: the body is sent least significant bit first, and the checksum
byte after it is packed as it is. -/

namespace Sys2Proof.Proofs

open Sys2Proof.Machine

/-! ### The places of the body (R212) -/

section
variable {c : Config} (fan ext : Byte) (S : Axes)

theorem cBody_fanpos : cBody c fan ext c.cFanpos S = fan := if_pos rfl

/-- The two sums stand at different places in a well-formed configuration (R212). -/
theorem cBody_extpos (hc : c.WF) : cBody c fan ext c.cExtpos S = ext := by
  rw [cBody, if_neg hc.c_pos.symm, if_pos rfl]

theorem cBody_other {j : Fin 18} (hfan : j ≠ c.cFanpos) (hext : j ≠ c.cExtpos) :
    cBody c fan ext j S = c.cRest j S := by
  rw [cBody, if_neg hfan, if_neg hext]

end

/-- Place by place, the body of an encoding that does not abort is `cBody` of the two sums, which both fit (R212). -/
theorem cBytes_getElem? {c : Config} {S : Axes} {body : List Byte} (h : cBytes c S = some body) :
    ∃ fan ext : Byte, fan.toNat = (c.cFan1 S).toNat + (c.cFan2 S).toNat ∧
      ext.toNat = (c.cExt1 S).toNat + (c.cExt2 S).toNat ∧
      ∀ j : Fin 18, body[j.val]? = some (cBody c fan ext j S) := by
  obtain ⟨fan, ext, hfan, hext, rfl⟩ := cBytes_eq_some c S h
  exact ⟨fan, ext, sum2_eq_some.mp hfan, sum2_eq_some.mp hext, fun j => by rw [List.getElem?_ofFn, dif_pos j.isLt]⟩

/-- The checksum is one sum, over the bytes that `C_CK_REV` selects (R214). -/
theorem cSum_eq_sum8 (c : Config) (body : List Byte) :
    cSum c body = sum8 (if c.cCkRev then body.map rev8 else body) := (apply_ite sum8 _ _ _).symm

/-! ### The frame of a body and a checksum (R216, R217) -/

/-- The transmitted frame: the reversed body, then the checksum byte as it is (R217). -/
def cSent (body : List Byte) (ck : Byte) : Frame := pack (body.map rev8 ++ [ck])

/-- An encoding that does not abort is the one frame of its body (R219). -/
theorem encodeFrames_C_eq_some {c : Config} {S : Axes} {fs : List Frame} (h : encodeFrames c .C S = some fs) :
    ∃ body, cBytes c S = some body ∧ fs = [cSent body (cSum c body)] := by
  rw [encodeFrames, encodeC_eq, Option.map_eq_some_iff] at h
  obtain ⟨body, hbody, hfs⟩ := h
  exact ⟨body, hbody, hfs.symm⟩

section
variable {body : List Byte} (ck : Byte)

theorem cSent_length : (cSent body ck).length = 8 * body.length + 8 := by
  rw [cSent, pack_length, List.length_append, List.length_map, List.length_singleton, Nat.mul_succ]

/-- Each body byte is sent least significant bit first (R216, R217). -/
theorem cSent_body {n i : Nat} {b : Byte} (hb : body[n]? = some b) (hi : i < 8) :
    (cSent body ck)[8 * n + i]? = some (b.getLsbD i) := by
  have hbit := pack_map_rev8_getElem? hb hi
  obtain ⟨hplace, _⟩ := List.getElem?_eq_some_iff.mp hbit
  rw [cSent, pack_append, List.getElem?_append_left hplace, hbit]

/-- The checksum byte follows the body, most significant bit first (R216, R217). -/
theorem cSent_checksum {i : Nat} (hi : i < 8) :
    (cSent body ck)[8 * body.length + i]? = some (ck.getLsbD (7 - i)) := by
  have hck : (body.map rev8 ++ [ck])[body.length]? = some ck := by simp
  exact pack_getElem? hck hi

end

/-- Settles O43: the places of the body are `cBytes_getElem?`, and its length, 18, fixes the places of the bits in
`cSent_body` and `cSent_checksum` (R212 to R220). -/
theorem vendorCBytesInOrder : Obligations.VendorCBytesInOrder := by
  unfold Obligations.VendorCBytesInOrder
  intro c S fs hc he
  obtain ⟨body, hbody, hfs⟩ := encodeFrames_C_eq_some he
  obtain ⟨fan, ext, hfan, hext, hplace⟩ := cBytes_getElem? hbody
  have hlen : body.length = 18 := cBytes_length c S hbody
  refine ⟨body, cSum c body, cSent body (cSum c body), hfs, hlen, ?length, ?rest, ?fanSum, ?extSum,
    cSum_eq_sum8 c body, fun _ _ _ => cSent_body _, ?checksum⟩
  case length => rw [cSent_length, hlen]
  case rest =>
    intro j hjfan hjext
    rw [hplace, cBody_other fan ext S hjfan hjext]
  case fanSum => rw [hplace, cBody_fanpos, Option.map_some, hfan]
  case extSum => rw [hplace, cBody_extpos fan ext S hc, Option.map_some, hext]
  case checksum =>
    intro i hi
    have hbit := cSent_checksum (body := body) (cSum c body) hi
    rwa [hlen] at hbit

end Sys2Proof.Proofs

/-! ## The frames of vendor D (R230 to R240)

A data nibble is packed with its complement, so each nibble gives four ones whatever its value; the frames are read
nibble by nibble and byte by byte from this. -/

namespace Sys2Proof.Proofs

open Sys2Proof.Machine

/-! ### The bits of a nibble pack (R144, R147) -/

/-- The nibble pack bit by bit: the complement below, the nibble above (R144). -/
theorem getLsbD_nibp (n : Nib) (i : Nat) :
    (nibp n).getLsbD i = if i < 4 then !n.getLsbD i else n.getLsbD (i - 4) := by
  rw [nibp, BitVec.getLsbD_append]
  by_cases hi : i < 4
  · rw [if_pos hi, if_pos hi, cpl4, BitVec.getLsbD_not, decide_eq_true hi, Bool.true_and]
  · rw [if_neg hi, if_neg hi]

/-- The four bits of a nibble, most significant first (R52). -/
def nibBits (n : Nib) : List Bit := [n[3], n[2], n[1], n[0]]

/-- Packed into bits, a nibble pack is the nibble and then its bits inverted (R144, R147). -/
theorem byteBits_nibp (n : Nib) : byteBits (nibp n) = nibBits n ++ (nibBits n).map (!·) := by
  simp [byteBits, nibBits, ← BitVec.getLsbD_eq_getElem, getLsbD_nibp]

/-- The ones among inverted bits are the zeros among the bits, so bits and their inverses have one 1 for each bit. -/
theorem count_append_map_not (bits : List Bit) : (bits ++ bits.map (!·)).count true = bits.length := by
  have hzeros : (bits.map (!·)).count true = bits.count false :=
    List.count_map_of_injective _ _ Bool.not_injective false
  rw [List.count_append, hzeros, List.count_true_add_count_false]

/-- Each nibble pack has four ones, whatever the nibble (R240). -/
theorem count_pack_map_nibp (ns : List Nib) : (pack (ns.map nibp)).count true = 4 * ns.length := by
  induction ns with
  | nil => rfl
  | cons n ns ih =>
    have hnib : (nibBits n).length = 4 := rfl
    rw [List.map_cons, pack_cons, List.count_append, byteBits_nibp, count_append_map_not, ih, hnib, List.length_cons]
    omega

/-! ### The main frame and the footer (R234 to R237) -/

section
variable (c : Config) (S : Axes)

theorem dMain_getElem? {i : Nat} (hi : i < c.dNb) : (dMain c S)[i]? = some (nibp (dNib c i S)) := by
  rw [dMain, List.getElem?_map, List.getElem?_range hi, Option.map_some]

theorem dFooter_getElem? (i : Fin 6) : (dFooter c S)[i.val]? = some (c.dFoot i S) := by
  rw [dFooter, List.getElem?_ofFn, dif_pos i.isLt]

/-- The eight bits of data nibble `i`: its own, then their inverses (R234, R237). -/
theorem pack_dMain_getElem? {i k : Nat} (hi : i < c.dNb) (hk : k < 4) :
    (pack (dMain c S))[8 * i + k]? = some ((dNib c i S).getLsbD (3 - k)) ∧
    (pack (dMain c S))[8 * i + 4 + k]? = some (!(dNib c i S).getLsbD (3 - k)) := by
  have hbyte := dMain_getElem? c S hi
  constructor
  · have hplace : 7 - k - 4 = 3 - k := by omega
    rw [pack_getElem? hbyte (by omega), getLsbD_nibp, if_neg (by omega), hplace]
  · have hplace : 7 - (4 + k) = 3 - k := by omega
    rw [Nat.add_assoc, pack_getElem? hbyte (by omega), getLsbD_nibp, hplace, if_pos (by omega)]

/-- Half of the bits of the main frame are ones (R240). -/
theorem count_pack_dMain : (pack (dMain c S)).count true = 4 * c.dNb := by
  have hmain : dMain c S = ((List.range c.dNb).map fun i => dNib c i S).map nibp := by
    rw [List.map_map]
    rfl
  rw [hmain, count_pack_map_nibp, List.length_map, List.length_range]

end

/-- Settles O44: the nibble pairs are `pack_dMain_getElem?`, the ones among their bits `count_pack_dMain`, and the
footer is packed as configured (R233 to R240). -/
theorem vendorDNibblePairs : Obligations.VendorDNibblePairs := by
  unfold Obligations.VendorDNibblePairs
  intro c S
  refine ⟨pack (dMain c S), pack (dFooter c S), encodeFrames_D c S, ?mainLength, ?footerLength,
    count_pack_dMain c S, ?pairs, fun i _ => pack_getElem? (dFooter_getElem? c S i)⟩
  case mainLength => rw [pack_length, dMain_length]
  case footerLength => rw [pack_length, dFooter_length]
  case pairs =>
    intro i k hi hk
    obtain ⟨hnibble, hcomplement⟩ := pack_dMain_getElem? c S hi hk
    rw [hcomplement, hnibble]
    exact ⟨rfl, rfl⟩

end Sys2Proof.Proofs

/-! ## ENC, ASM, FLEN and RDBIT (R250 to R256, R281)

`ENC` and `ASM` are an encoding and what follows it (`encodeThen`); `FLEN` and `RDBIT` read the frames behind the same
two tests of R310. What an abort leaves is the one state `raise .fatal`, whichever of the two commands aborted. -/

namespace Sys2Proof.Proofs

open Sys2Proof.Machine

/-! ### The words (R80, R81) -/

theorem toNat_setWidth_frame (f : BitVec 1) : (f.setWidth 4).toNat = f.toNat :=
  BitVec.toNat_setWidth_of_le (by decide)

/-- The word of a command that holds `imm16` in `hi` and `lo`, as a number (R80). -/
theorem toNat_mkWord_imm16 (op a : BitVec 4) (i : BitVec 16) :
    (mkWord op a (i.extractLsb' 8 8) (i.extractLsb' 0 8)).toNat =
      0x10000000 * op.toNat + 0x1000000 * a.toNat + i.toNat := by
  have himm : 256 * (i.extractLsb' 8 8).toNat + (i.extractLsb' 0 8).toNat = i.toNat := by
    simp only [BitVec.extractLsb'_toNat, Nat.shiftRight_eq_div_pow]
    omega
  rw [toNat_mkWord]
  omega

/-! ### ENC and ASM (R253, R281) -/

section
variable {c : WfConfig} {latch : Appliance → List Frame → State → State} {s : State} {p : Appliance}

/-- Without an appliance nothing is encoded (R305). -/
theorem encodeThen_eq_failed (hp : s.block.app = none) : encodeThen c latch s = failed s .noinst :=
  withInstance_noinst _ hp

/-- With an appliance the encoding of the present state decides. -/
theorem encodeThen_eq_elim (hp : s.block.app = some p) :
    encodeThen c latch s = (encodeFrames c.val p.vendor p.ax).elim (raise .fatal s) fun fs => latch p fs s := by
  cases he : encodeFrames c.val p.vendor p.ax with
  | none => exact encodeThen_aborted hp he
  | some fs => exact encodeThen_encoded hp he

end

/-- Settles O20: `ENC` encodes and then latches the frames (R250, R253). -/
theorem encLatchesTheFrames : Obligations.EncLatchesTheFrames := by
  unfold Obligations.EncLatchesTheFrames
  refine ⟨rfl, fun s => ⟨fun hp => ?_, fun p hp => ?_⟩⟩ <;> rw [exec_eq_runCmd, runCmd_enc_eq_encodeThen]
  · rw [encodeThen_eq_failed hp]
  · rw [encodeThen_eq_elim hp]
    cases encodeFrames Config.cfg p.vendor p.ax <;> rfl

/-- Settles O21: `ASM` encodes and then latches the frames with their wave (R250, R280, R281). -/
theorem asmLatchesTheWave : Obligations.AsmLatchesTheWave := by
  unfold Obligations.AsmLatchesTheWave
  refine ⟨rfl, fun s => ⟨fun hp => ?_, fun p hp => ?_⟩⟩ <;> rw [exec_eq_runCmd, runCmd_asm_eq_encodeThen]
  · rw [encodeThen_eq_failed hp]
  · rw [encodeThen_eq_elim hp]
    cases encodeFrames Config.cfg p.vendor p.ax <;> rfl

/-! ### An aborted encoding (R254) -/

/-- An aborted encoding leaves the same state after `ENC` and after `ASM` (R253, R281). -/
theorem runCmd_encoding_aborted (c : WfConfig) {i : Instr} {s : State} {p : Appliance} (hi : i = .enc ∨ i = .asm)
    (hp : s.block.app = some p) (he : encodeFrames c.val p.vendor p.ax = none) : runCmd c i s = raise .fatal s := by
  rcases hi with rfl | rfl
  · rw [runCmd_enc_eq_encodeThen, encodeThen_aborted hp he]
  · rw [runCmd_asm_eq_encodeThen, encodeThen_aborted hp he]

/-- `ERR_FATAL` clears both valid bits and keeps the appliance (R254, R303). -/
theorem buffersStale_raise_fatal {s : State} (h : s.block.app.isSome) : BuffersStale (raise .fatal s) :=
  ⟨h, rfl, rfl⟩

/-- Settles O23: the state after the abort is `raise .fatal`, whose buffers are stale and whose appliance still does not
encode; a `SET` and an `ENC` after it keep `FATAL` (R32, R254). -/
theorem abortLeavesNothingReadable : Obligations.AbortLeavesNothingReadable := by
  unfold Obligations.AbortLeavesNothingReadable
  intro c i s p hi hp he
  have hstale : BuffersStale (raise .fatal s) := buffersStale_raise_fatal (Option.isSome_of_eq_some hp)
  rw [runCmd_encoding_aborted c hi hp he]
  refine ⟨rfl, hp, rfl, fun f k => ?rdbit, fun k => ?rdpulse, ?again, fun ax x q fs hq hfs => ⟨?okay, ?fatal⟩⟩
  case rdbit => exact bufferRead_resp_of_stale c hstale (.inr (.inr (.inr (.inl ⟨f, k, rfl⟩))))
  case rdpulse => exact bufferRead_resp_of_stale c hstale (.inr (.inr (.inr (.inr ⟨k, rfl⟩))))
  case again => rw [runCmd_encoding_aborted c hi (s := raise .fatal s) hp he, raise_resp]
  case okay =>
    rw [runCmd_enc_eq_encodeThen, encodeThen_encoded hq hfs]
    rfl
  case fatal => exact runCmd_keeps_fatal c _ _ (runCmd_keeps_fatal c _ _ rfl)

/-! ### The lengths of the frames (R251) -/

/-- Settles O36: `encodeFrames_lengths`, with its number and lengths of frames written out vendor by vendor (R251). -/
theorem frameLengthsAreConstant : Obligations.FrameLengthsAreConstant := by
  unfold Obligations.FrameLengthsAreConstant
  intro c v S fs he
  rw [encodeFrames_lengths c S he]
  cases v <;> rfl

/-! ### FLEN and RDBIT (R255, R256) -/

/-- The tests in front of every read of the frames, in the order of R310 (R305, R308). -/
theorem withInstance_withFrames_eq (s : State) (k : List Frame → State) :
    (withInstance s fun _ => withFrames s k) =
      s.block.app.elim (failed s .noinst) fun _ => s.block.frames.elim (failed s .stale) k := by
  cases happ : s.block.app with
  | none => exact withInstance_noinst _ happ
  | some p =>
    rw [withInstance_some _ happ]
    cases hf : s.block.frames with
    | none => rw [withFrames_none _ hf, raise_eq_failed (by decide)]; rfl
    | some fs => exact withFrames_some _ hf

theorem readFlen_of_lt {fs : List Frame} {f : Nat} (h : f < fs.length) : readFlen fs f = some fs[f].length := by
  rw [readFlen, List.getElem?_eq_getElem h, Option.map_some]

theorem readFlen_of_not_lt {fs : List Frame} {f : Nat} (h : ¬ f < fs.length) : readFlen fs f = none := by
  rw [readFlen, List.getElem?_eq_none (Nat.not_lt.mp h), Option.map_none]

theorem readBit_of_lt {fs : List Frame} {f : Nat} (h : f < fs.length) (i : Nat) : readBit fs f i = fs[f][i]? := by
  rw [readBit, List.getElem?_eq_getElem h, Option.bind_some]

theorem readBit_of_not_lt {fs : List Frame} {f : Nat} (h : ¬ f < fs.length) (i : Nat) : readBit fs f i = none := by
  rw [readBit, List.getElem?_eq_none (Nat.not_lt.mp h), Option.bind_none]

/-- Settles O24: the two tests of R310, then the length of a frame that is there (R255, R305 to R308). -/
theorem flenReadsTheLength : Obligations.FlenReadsTheLength := by
  unfold Obligations.FlenReadsTheLength
  intro f s
  refine ⟨by rw [encode, toNat_mkWord_hi_zero, toNat_setWidth_frame]; rfl, ?_⟩
  rw [exec_eq_runCmd, runCmd, flenCmd, withInstance_withFrames_eq]
  cases s.block.app with
  | none => rfl
  | some p =>
    cases s.block.frames with
    | none => rfl
    | some fs =>
      by_cases h : f.toNat < fs.length
      · simp only [Option.elim_some, readFlen_of_lt h, dif_pos h]
        rfl
      · simp only [Option.elim_some, readFlen_of_not_lt h, dif_neg h]
        rfl

/-- Settles O25: the two tests of R310, then a bit that is there of a frame that is there (R256, R305 to R308). -/
theorem rdbitReadsTheBit : Obligations.RdbitReadsTheBit := by
  unfold Obligations.RdbitReadsTheBit
  intro f i s
  refine ⟨by rw [encode, toNat_mkWord_imm16, toNat_setWidth_frame]; rfl, ?_⟩
  rw [exec_eq_runCmd, runCmd, rdbitCmd, withInstance_withFrames_eq]
  cases s.block.app with
  | none => rfl
  | some p =>
    cases s.block.frames with
    | none => rfl
    | some fs =>
      by_cases h : f.toNat < fs.length
      · by_cases h' : i.toNat < fs[f.toNat].length
        · simp only [Option.elim_some, readBit_of_lt h, List.getElem?_eq_getElem h', dif_pos h, dif_pos h']
          rfl
        · simp only [Option.elim_some, readBit_of_lt h, List.getElem?_eq_none (Nat.not_lt.mp h'), dif_pos h,
            dif_neg h']
          rfl
      · simp only [Option.elim_some, readBit_of_not_lt h, dif_neg h]
        rfl

end Sys2Proof.Proofs

/-! ## The waveform assembler (R273 to R280)

A wave is the concatenation of what its segments give, so a place in a segment is a place in the wave, counted from
where the segment starts. Read the other way, equal waves have equal segments, because the lengths of the segments are
constant; and a frame can be read back from the segment that expands it. -/

namespace Sys2Proof.Proofs

open Sys2Proof.Machine

/-! ### The expansion of a frame (R273) -/

section
variable (c : Config) (v : Vendor)

/-- Bit `i` takes two entries of the expansion: the mark, then the space of its value (R273). -/
theorem expandFrame_getElem? {f : Frame} {i : Nat} {b : Bit} (hb : f[i]? = some b) :
    (expandFrame c v f)[2 * i]? = some (c.mark v) ∧
    (expandFrame c v f)[2 * i + 1]? = some (if b then c.oneSpace v else c.zeroSpace v) := by
  induction f generalizing i with
  | nil => simp at hb
  | cons b₀ f ih =>
    cases i with
    | zero =>
      obtain rfl : b₀ = b := by simpa using hb
      exact ⟨rfl, rfl⟩
    | succ i => exact ih (by simpa using hb)

variable {c v}

/-- The space tells a one from a zero (R271, R273). -/
theorem expandBit_injective (h : c.zeroSpace v ≠ c.oneSpace v) : Function.Injective (expandBit c v) := by
  intro b b' hb
  have hspace : (if b then c.oneSpace v else c.zeroSpace v) = if b' then c.oneSpace v else c.zeroSpace v := by
    simpa [expandBit] using hb
  match b, b', hspace with
  | true, true, _ | false, false, _ => rfl
  | true, false, hspace => exact absurd hspace.symm h
  | false, true, hspace => exact absurd hspace h

/-- So the bits of a frame can be read back from its expansion, two entries at a time. -/
theorem expandFrame_injective (h : c.zeroSpace v ≠ c.oneSpace v) : Function.Injective (expandFrame c v) := by
  intro f
  induction f with
  | nil =>
    intro f' hf
    cases f' with
    | nil => rfl
    | cons b f' => simp [expandBit] at hf
  | cons b f ih =>
    intro f' hf
    cases f' with
    | nil => simp [expandBit] at hf
    | cons b' f' =>
      obtain ⟨hbit, hrest⟩ := List.append_inj hf rfl
      rw [expandBit_injective h hbit, ih hrest]

end

/-! ### The places of a segment (R274, R276) -/

section
variable {c : Config} {v : Vendor} {before after : List Seg} {seg : Seg}

/-- An entry of a segment stands in the wave, behind the segments before it (R274). -/
theorem assemble_getElem?_of_segWave (hsegs : c.segs v = before ++ seg :: after) {fs : List Frame} {k : Nat} {d : Dur}
    (hd : (segWave c v fs seg)[k]? = some d) :
    (assemble c v fs)[(before.flatMap (segWave c v fs)).length + k]? = some d := by
  obtain ⟨hk, _⟩ := List.getElem?_eq_some_iff.mp hd
  rw [assemble, hsegs, List.flatMap_append, List.flatMap_cons, List.getElem?_append_right (Nat.le_add_right _ _),
    Nat.add_sub_cancel_left, List.getElem?_append_left hk, hd]

/-- Only the last segment is a literal of odd length, so what stands before a segment has even length (R276). -/
theorem even_start (hc : c.WF) (hsegs : c.segs v = before ++ seg :: after) (fs : List Frame) :
    (before.flatMap (segWave c v fs)).length % 2 = 0 := by
  obtain ⟨init, last, hlast, _, heven⟩ := hc.seg_parity v
  have hinit : init = before ++ (seg :: after).dropLast := by
    simpa using congrArg List.dropLast (hlast.symm.trans hsegs)
  rw [List.length_flatMap]
  refine Nat.mod_eq_zero_of_dvd (List.dvd_sum fun n hn => ?_)
  obtain ⟨g, hg, rfl⟩ := List.mem_map.mp hn
  cases g with
  | lit ds => exact Nat.dvd_of_mod_eq_zero (heven ds (hinit ▸ List.mem_append_left _ hg))
  | data f =>
    rw [segWave_data, expandFrame_length]
    exact Nat.dvd_mul_right 2 _

end

/-- Settles O47: `even_start` for the start; the places of a literal are its own, those of a frame are
`expandFrame_getElem?` (R273, R274, R276). -/
theorem segmentsExpandInPlace : Obligations.SegmentsExpandInPlace := by
  unfold Obligations.SegmentsExpandInPlace
  intro c v fs before after seg hc hsegs
  refine ⟨even_start hc hsegs fs, ?_⟩
  cases seg with
  | lit ds => exact fun i d hd => assemble_getElem?_of_segWave hsegs hd
  | data f =>
    intro i b hb
    obtain ⟨hmark, hspace⟩ := expandFrame_getElem? c v hb
    exact ⟨assemble_getElem?_of_segWave hsegs hmark, assemble_getElem?_of_segWave hsegs hspace⟩

/-! ### Reading the frames back (R272, R280) -/

section
variable {c : Config} {v : Vendor}

/-- The segments of every encoding have the same lengths (R277). -/
theorem segWave_length_of_encodeFrames (hc : c.WF) {S : Axes} {fs : List Frame} (he : encodeFrames c v S = some fs)
    {g : Seg} (hg : g ∈ c.segs v) : (segWave c v fs g).length = c.segLen v g := by
  cases g with
  | lit ds => rfl
  | data f => rw [segWave_data, expandFrame_length, encodeFrames_getD_length he (data_lt_nfr hc hg), Config.segLen]

/-- Lists of the same lengths are cut out of their concatenation at the same places, so equal waves of encodings have
equal segments. -/
theorem segWave_eq_of_assemble_eq (hc : c.WF) {S S' : Axes} {fs fs' : List Frame}
    (he : encodeFrames c v S = some fs) (he' : encodeFrames c v S' = some fs')
    (hwave : assemble c v fs = assemble c v fs') {g : Seg} (hg : g ∈ c.segs v) :
    segWave c v fs g = segWave c v fs' g := by
  have hlengths : ((c.segs v).map (segWave c v fs)).map List.length =
      ((c.segs v).map (segWave c v fs')).map List.length := by
    rw [List.map_map, List.map_map]
    exact List.map_congr_left fun g hg =>
      (segWave_length_of_encodeFrames hc he hg).trans (segWave_length_of_encodeFrames hc he' hg).symm
  have hpieces := List.eq_iff_flatten_eq.mpr ⟨hwave, hlengths⟩
  exact List.map_inj_left.mp hpieces g hg

/-- Every frame of the vendor has a `DATA` segment (R272). -/
theorem data_mem_segs (hc : c.WF) {f : Nat} (hf : f < Config.nfr v) : .data f ∈ c.segs v := by
  have hmem : f ∈ Config.dataOrder (c.segs v) → .data f ∈ c.segs v := by
    intro h
    obtain ⟨g, hg, hgf⟩ := List.mem_filterMap.mp h
    cases g with
    | lit ds => cases hgf
    | data k => exact Option.some.inj hgf ▸ hg
  have horder := hc.data_order v
  apply hmem
  cases v with
  | A =>
    rw [show Config.dataOrder (c.segs .A) = [0, 1] from horder]
    match f, hf with
    | 0, _ | 1, _ => decide
  | B | C =>
    obtain ⟨k, hk⟩ := List.exists_mem_of_ne_nil _ horder.1
    obtain rfl : f = 0 := Nat.lt_one_iff.mp hf
    exact horder.2 k hk ▸ hk
  | D =>
    rw [show Config.dataOrder (c.segs .D) = [0, 0, 1] from horder]
    match f, hf with
    | 0, _ | 1, _ => decide

/-- An encoding has the vendor's number of frames (R251). -/
theorem encodeFrames_length {S : Axes} {fs : List Frame} (he : encodeFrames c v S = some fs) :
    fs.length = Config.nfr v := by
  simpa using congrArg List.length (encodeFrames_lengths c S he)

end

/-- Settles O48: every frame has a segment, equal waves have equal segments, and the expansion of a frame determines it
(R272, R273, R280). -/
theorem waveDeterminesTheFrames : Obligations.WaveDeterminesTheFrames := by
  unfold Obligations.WaveDeterminesTheFrames
  intro c v S S' fs fs' hc he he' hwave
  have hlen := encodeFrames_length he
  have hlen' := encodeFrames_length he'
  refine List.ext_getElem (hlen.trans hlen'.symm) fun f hf hf' => ?_
  have hframe : fs.getD f [] = fs'.getD f [] := by
    apply expandFrame_injective (hc.spaces v)
    exact segWave_eq_of_assemble_eq hc he he' hwave (data_mem_segs hc (hlen ▸ hf))
  rwa [List.getD_eq_getElem _ _ hf, List.getD_eq_getElem _ _ hf'] at hframe

end Sys2Proof.Proofs

/-! ## WLEN and RDPULSE (R282, R283)

Both read the wave behind the same two tests of R310. -/

namespace Sys2Proof.Proofs

open Sys2Proof.Machine

/-- The tests in front of every read of the wave, in the order of R310 (R305, R308). -/
theorem withInstance_withWave_eq (s : State) (k : Wave → State) :
    (withInstance s fun _ => withWave s k) =
      s.block.app.elim (failed s .noinst) fun _ => s.block.wave.elim (failed s .stale) k := by
  cases happ : s.block.app with
  | none => exact withInstance_noinst _ happ
  | some p =>
    rw [withInstance_some _ happ]
    cases hw : s.block.wave with
    | none => rw [withWave_none _ hw, raise_eq_failed (by decide)]; rfl
    | some w => exact withWave_some _ hw

/-- Settles O26: the two tests of R310, then the length (R282, R305, R308). -/
theorem wlenReadsTheLength : Obligations.WlenReadsTheLength := by
  unfold Obligations.WlenReadsTheLength
  refine ⟨rfl, fun s => ?_⟩
  rw [exec_eq_runCmd, runCmd, wlenCmd, withInstance_withWave_eq]
  cases s.block.app with
  | none => rfl
  | some p => cases s.block.wave <;> rfl

/-- Settles O27: the two tests of R310, then an entry that is there (R283, R305 to R308). -/
theorem rdpulseReadsTheDuration : Obligations.RdpulseReadsTheDuration := by
  unfold Obligations.RdpulseReadsTheDuration
  intro i s
  refine ⟨toNat_mkWord_imm16 0xB 0 i, ?_⟩
  rw [exec_eq_runCmd, runCmd, rdpulseCmd, withInstance_withWave_eq]
  cases s.block.app with
  | none => rfl
  | some p =>
    cases s.block.wave with
    | none => rfl
    | some w =>
      by_cases h : i.toNat < w.length
      · simp only [Option.elim_some, readPulse, List.getElem?_eq_getElem h, dif_pos h]
        rfl
      · simp only [Option.elim_some, readPulse, List.getElem?_eq_none (Nat.not_lt.mp h), dif_neg h]
        rfl

end Sys2Proof.Proofs

/-! ## The errors (R300 to R312)

A response with an error code has only one way to come about, `raise`: what an error changes follows from it. Which
codes a command can raise is read off the tests it is built from. -/

namespace Sys2Proof.Proofs

open Sys2Proof.Machine

/-! ### What an error changes (R312) -/

/-- A command that responds with an error code has raised that error, and done nothing else (R312, R313). -/
theorem runCmd_eq_raise {c : WfConfig} {i : Instr} {s : State} {e : Err} {d : Word}
    (h : (runCmd c i s).port.resp = some { code := .err e, data := d }) : runCmd c i s = raise e s ∧ d = 0 := by
  have hraise {e' : Err} (heq : runCmd c i s = raise e' s) : runCmd c i s = raise e s ∧ d = 0 := by
    rw [heq, raise_resp] at h
    cases h
    exact ⟨heq, rfl⟩
  have hokay {d' : Word} (hresp : (runCmd c i s).port.resp = some { code := .okay, data := d' }) :
      runCmd c i s = raise e s ∧ d = 0 := by
    cases hresp.symm.trans h
  rcases runCmd_cases c i s with (⟨_, heq⟩ | ⟨_, _, heq⟩) | ⟨_, _, _, _, heq⟩ |
    ⟨_, _, _, _, _, _, _, _, _, _, heq⟩ | ⟨_, _, _, _, heq⟩ | ⟨_, _, _, _, _, heq⟩ | ⟨_, _, _, _, _, heq⟩
  · exact hokay (congrArg (·.port.resp) heq)
  · exact hraise heq
  · exact hokay (congrArg (·.port.resp) heq)
  · exact hokay (congrArg (·.port.resp) heq)
  · exact hraise heq
  · exact hokay (congrArg (·.port.resp) heq)
  · exact hokay (congrArg (·.port.resp) heq)

/-- What an error changes in the block, with the exception of R312 written out. -/
theorem errBlock_eq_ite (e : Err) (b : Block) :
    errBlock e b = if e = .fatal then { b with fatal := true, frames := none, wave := none } else b := by
  cases e <;> rfl

/-- Settles O52: a command that responds with an error code is `raise` of that error (R84, R312). -/
theorem errorsChangeNothingElse : Obligations.ErrorsChangeNothingElse := by
  unfold Obligations.ErrorsChangeNothingElse
  intro i s t e d hexec hresp
  obtain rfl := Host.Outcome.next.inj ((exec_eq_runCmd i s).symm.trans hexec)
  obtain ⟨hraise, hdata⟩ := runCmd_eq_raise hresp
  rw [hraise]
  exact ⟨hdata, rfl, rfl, errBlock_eq_ite e s.block⟩

/-! ### Legal operands (R93) -/

/-- A legal axis number is the number of an axis register (R20, R93 (d)). -/
theorem exists_axisNum {a : BitVec 4} (h : axisNumOk a = true) : ∃ ax, axisNum ax = a := by
  obtain ⟨ax, hax⟩ := Option.isSome_iff_exists.mp ((axisOf_isSome a).trans h)
  exact ⟨ax, axisNum_of_axisOf hax⟩

/-- A legal `INFO` selector is the number of a selector (R93 (e), R101). -/
theorem exists_selectorNum {n : BitVec 4} (h : selectorNumOk n = true) : ∃ sel, selectorNum sel = n := by
  obtain ⟨sel, hsel⟩ := Option.isSome_iff_exists.mp ((selectorOf_isSome n).trans h)
  exact ⟨sel, selectorNum_of_selectorOf hsel⟩

/-! ### Which errors a test can raise (R305 to R308) -/

/-- Every error code that the response in a state carries is one of `P`. -/
def ErrorsIn (P : Err → Prop) (t : State) : Prop :=
  ∀ e d, t.port.resp = some { code := .err e, data := d } → P e

section
variable {P : Err → Prop} {s : State}

theorem errorsIn_of_okay {t : State} {d : Word} (h : t.port.resp = some { code := .okay, data := d }) :
    ErrorsIn P t := by
  intro e d' he
  cases h.symm.trans he

theorem errorsIn_raise {e : Err} (h : P e) (s : State) : ErrorsIn P (raise e s) := by
  intro e' d he
  cases (raise_resp e s).symm.trans he
  exact h

theorem errorsIn_withInstance {k : Appliance → State} (hnoinst : P .noinst) (hk : ∀ p, ErrorsIn P (k p)) :
    ErrorsIn P (withInstance s k) := by
  rcases withInstance_cases s k with ⟨_, heq⟩ | ⟨p, _, heq⟩ <;> rw [heq]
  · exact errorsIn_raise hnoinst s
  · exact hk p

theorem errorsIn_withFrames {k : List Frame → State} (hstale : P .stale) (hk : ∀ fs, ErrorsIn P (k fs)) :
    ErrorsIn P (withFrames s k) := by
  rcases withFrames_cases s k with ⟨_, heq⟩ | ⟨fs, _, heq⟩ <;> rw [heq]
  · exact errorsIn_raise hstale s
  · exact hk fs

theorem errorsIn_withWave {k : Wave → State} (hstale : P .stale) (hk : ∀ w, ErrorsIn P (k w)) :
    ErrorsIn P (withWave s k) := by
  rcases withWave_cases s k with ⟨_, heq⟩ | ⟨w, _, heq⟩ <;> rw [heq]
  · exact errorsIn_raise hstale s
  · exact hk w

/-- A legal axis operand passes the first test of R310. -/
theorem errorsIn_withAxis {a : BitVec 4} {k : Axis → State} (ha : axisNumOk a = true) (hk : ∀ ax, ErrorsIn P (k ax)) :
    ErrorsIn P (withAxis a s k) := by
  obtain ⟨ax, rfl⟩ := exists_axisNum ha
  rw [withAxis_axisNum]
  exact hk ax

end

/-! ### Which errors a command can raise (R309) -/

section
variable {c : WfConfig} {s : State}

theorem initCmd_errors (v : Byte) : ErrorsIn (· = .model) (initCmd c v s) := by
  rcases initCmd_cases c v s with ⟨_, heq⟩ | ⟨_, _, heq⟩ <;> rw [heq]
  · exact errorsIn_raise (P := (· = .model)) rfl s
  · exact errorsIn_of_okay rfl

theorem setCmd_errors {a : BitVec 4} (ha : axisNumOk a = true) (x : Byte) :
    ErrorsIn (fun e => e = .type ∨ e = .noinst) (setCmd c a x s) := by
  refine errorsIn_withAxis ha fun ax => errorsIn_withInstance (.inr rfl) fun p => ?_
  by_cases hx : x = 0
  · rw [if_pos hx]
    exact errorsIn_of_okay rfl
  rw [if_neg hx]
  cases settledValue c.val p.vendor ax x with
  | none => exact errorsIn_raise (.inl rfl) s
  | some w => exact errorsIn_of_okay rfl

theorem getCmd_errors {a : BitVec 4} (ha : axisNumOk a = true) : ErrorsIn (· = .noinst) (getCmd a s) :=
  errorsIn_withAxis ha fun _ => errorsIn_withInstance rfl fun _ => errorsIn_of_okay rfl

theorem capqCmd_errors {a : BitVec 4} (ha : axisNumOk a = true) (code : Byte) :
    ErrorsIn (· = .noinst) (capqCmd c a code s) :=
  errorsIn_withAxis ha fun _ => errorsIn_withInstance rfl fun _ => errorsIn_of_okay rfl

/-- `INFO 4` has no error, and `INFO 5` alone reads the frames (R125, R309). -/
theorem infoCmd_errors {n : BitVec 4} (hn : selectorNumOk n = true) :
    ErrorsIn (fun e => (e = .noinst ∧ n ≠ 4) ∨ (e = .stale ∧ n = 5)) (infoCmd c n s) := by
  obtain ⟨sel, rfl⟩ := exists_selectorNum hn
  rw [infoCmd, withSelector_some _ (selectorOf_selectorNum sel)]
  cases sel with
  | status => exact errorsIn_of_okay rfl
  | vendor | minTemp | maxTemp | tempStep =>
    exact errorsIn_withInstance (.inl ⟨rfl, by decide⟩) fun _ => errorsIn_of_okay rfl
  | nfr =>
    exact errorsIn_withInstance (.inl ⟨rfl, by decide⟩) fun _ =>
      errorsIn_withFrames (.inr ⟨rfl, rfl⟩) fun _ => errorsIn_of_okay rfl

/-- `ENC` and `ASM` need an appliance, and an encoding can abort; the latch that follows has no error (R303, R305). -/
theorem encodeThen_errors {latch : Appliance → List Frame → State → State}
    (hlatch : ∀ p fs, ∃ d, (latch p fs s).port.resp = some { code := .okay, data := d }) :
    ErrorsIn (fun e => e = .fatal ∨ e = .noinst) (encodeThen c latch s) := by
  refine errorsIn_withInstance (.inr rfl) fun p => ?_
  cases encodeFrames c.val p.vendor p.ax with
  | none => exact errorsIn_raise (.inl rfl) s
  | some fs =>
    obtain ⟨d, hd⟩ := hlatch p fs
    exact errorsIn_of_okay hd

theorem flenCmd_errors (f : BitVec 1) :
    ErrorsIn (fun e => e = .noinst ∨ e = .range ∨ e = .stale) (flenCmd f s) := by
  refine errorsIn_withInstance (.inl rfl) fun _ => errorsIn_withFrames (.inr (.inr rfl)) fun fs => ?_
  cases readFlen fs f.toNat with
  | none => exact errorsIn_raise (.inr (.inl rfl)) s
  | some n => exact errorsIn_of_okay rfl

theorem rdbitCmd_errors (f : BitVec 1) (k : BitVec 16) :
    ErrorsIn (fun e => e = .noinst ∨ e = .range ∨ e = .stale) (rdbitCmd f k s) := by
  refine errorsIn_withInstance (.inl rfl) fun _ => errorsIn_withFrames (.inr (.inr rfl)) fun fs => ?_
  cases readBit fs f.toNat k.toNat with
  | none => exact errorsIn_raise (.inr (.inl rfl)) s
  | some b => exact errorsIn_of_okay rfl

theorem wlenCmd_errors : ErrorsIn (fun e => e = .noinst ∨ e = .stale) (wlenCmd s) :=
  errorsIn_withInstance (.inl rfl) fun _ => errorsIn_withWave (.inr rfl) fun _ => errorsIn_of_okay rfl

theorem rdpulseCmd_errors (k : BitVec 16) :
    ErrorsIn (fun e => e = .noinst ∨ e = .range ∨ e = .stale) (rdpulseCmd k s) := by
  refine errorsIn_withInstance (.inl rfl) fun _ => errorsIn_withWave (.inr (.inr rfl)) fun w => ?_
  cases readPulse w k.toNat with
  | none => exact errorsIn_raise (.inr (.inl rfl)) s
  | some d => exact errorsIn_of_okay rfl

end

/-- Settles O53: row by row of the table; `NOP` and the `ENG` commands answer `OKAY` in every state (R309). -/
theorem codesOfEachCommand : Obligations.CodesOfEachCommand := by
  unfold Obligations.CodesOfEachCommand
  intro c i s e d hwf hresp
  cases i with
  | init v => exact initCmd_errors v e d hresp
  | set a x => exact setCmd_errors hwf x e d hresp
  | get a => exact getCmd_errors hwf e d hresp
  | capq a code => exact capqCmd_errors hwf code e d hresp
  | info n => exact infoCmd_errors hwf e d hresp
  | enc => exact encodeThen_errors (latch := latchAfterEnc) (fun _ _ => ⟨_, rfl⟩) e d hresp
  | asm => exact encodeThen_errors (latch := latchAfterAsm c) (fun _ _ => ⟨_, rfl⟩) e d hresp
  | flen f => exact flenCmd_errors f e d hresp
  | rdbit f k => exact rdbitCmd_errors f k e d hresp
  | wlen => exact wlenCmd_errors e d hresp
  | rdpulse k => exact rdpulseCmd_errors k e d hresp
  | nop | engRev8 | engCpl8 | engCpl4 | engNibp | engAdd8 | engTlutd | engTnibb | engTcodea | engTfldb =>
    exact errorsIn_of_okay (P := fun _ => False) (t := runCmd c _ s) rfl e d hresp

/-! ### Before the first accepted INIT (R342) -/

theorem failed_resp (s : State) (e : Err) : (failed s e).port.resp = some { code := .err e, data := 0 } := rfl

section
variable {c : WfConfig} {s : State}

/-- The second test of R310 answers a legal command with an axis operand while there is no appliance (R305). -/
theorem withAxis_withInstance_noinst {a : BitVec 4} (ha : axisNumOk a = true) (happ : s.block.app = none)
    (k : Axis → Appliance → State) : (withAxis a s fun ax => withInstance s (k ax)) = failed s .noinst := by
  obtain ⟨ax, rfl⟩ := exists_axisNum ha
  rw [withAxis_axisNum, withInstance_noinst _ happ]

/-- The status register while none of its four bits is set (R30). -/
theorem statusBits_eq_zero {b : Block} (happ : b.app = none) (hframes : b.frames = none) (hwave : b.wave = none)
    (hfatal : b.fatal = false) : statusBits (statusOf b) = 0 := by
  rw [statusOf, happ, hframes, hwave, hfatal]
  rfl

/-- Every selector but 4, the status register, needs an appliance (R125, R305). -/
theorem infoCmd_noinst {sel : Selector} (hsel : sel ≠ .status) (happ : s.block.app = none) :
    infoCmd c (selectorNum sel) s = failed s .noinst := by
  rw [infoCmd, withSelector_some _ (selectorOf_selectorNum sel)]
  cases sel with
  | status => exact absurd rfl hsel
  | vendor | minTemp | maxTemp | tempStep | nfr => exact withInstance_noinst _ happ

/-- `INFO` before the first accepted `INIT` (R342). -/
theorem infoCmd_resp_before_init {n : BitVec 4} (hn : selectorNumOk n = true) (happ : s.block.app = none)
    (hstatus : statusBits (statusOf s.block) = 0) :
    (infoCmd c n s).port.resp =
      some (if n = 4 then { code := .okay, data := 0 } else { code := .err .noinst, data := 0 }) := by
  obtain ⟨sel, rfl⟩ := exists_selectorNum hn
  by_cases hsel : sel = .status
  · subst hsel
    rw [infoCmd_status, hstatus]
    rfl
  · have hnum : selectorNum sel ≠ 4 := by
      revert hsel
      cases sel <;> decide
    rw [infoCmd_noinst hsel happ, if_neg hnum, failed_resp]

/-- `INIT` without an appliance constructs one, or leaves none (R111, R302). -/
theorem initCmd_before_init (v : Byte) (happ : s.block.app = none) :
    if v.toNat ≤ 3 then (initCmd c v s).block.app ≠ none ∧
      (initCmd c v s).port.resp = some { code := .okay, data := 0 }
    else (initCmd c v s).block.app = none ∧
      (initCmd c v s).port.resp = some { code := .err .model, data := 0 } := by
  rcases initCmd_cases c v s with ⟨hv, heq⟩ | ⟨w, hv, heq⟩ <;> rw [heq]
  · rw [if_neg (Nat.not_le.mpr ((vendorOf_eq_none v).mp hv))]
    exact ⟨happ, rfl⟩
  · have hregistered : ¬ 3 < v.toNat := fun h => by
      cases hv.symm.trans ((vendorOf_eq_none v).mpr h)
    rw [if_pos (Nat.not_lt.mp hregistered)]
    exact ⟨Option.some_ne_none _, rfl⟩

end

/-- Settles O60: the commands that need an appliance stop at the second test of R310; `INFO 4` reads four clear bits,
and `NOP` and `ENG` read nothing of the block (R305, R342). -/
theorem answersBeforeTheFirstInit : Obligations.AnswersBeforeTheFirstInit := by
  unfold Obligations.AnswersBeforeTheFirstInit
  intro c i s happ hframes hwave hfatal hwf
  have hnoinst {t : State} (ht : t = failed s .noinst) : t.port.resp = some { code := .err .noinst, data := 0 } :=
    ht ▸ failed_resp s .noinst
  cases i with
  | init v => exact initCmd_before_init v happ
  | info n => exact infoCmd_resp_before_init hwf happ (statusBits_eq_zero happ hframes hwave hfatal)
  | set | get | capq => exact hnoinst (withAxis_withInstance_noinst hwf happ _)
  | enc | asm | flen | rdbit | wlen | rdpulse => exact hnoinst (withInstance_noinst _ happ)
  | nop | engRev8 | engCpl8 | engCpl4 | engNibp | engAdd8 | engTlutd | engTnibb | engTcodea | engTfldb => rfl

end Sys2Proof.Proofs
